-- ==== Sys2Proof/Word.lean ====
section
/-! DEFINITION. The words of the unit: the 32-bit command word and the 128-bit ports
(spec 10_state.md R22, R23; 00_scope.md R5, R6). Bit 0 is the least significant bit. -/

namespace Sys2Proof

/-- A command word: 32 bits, one length, no prefix (R50). -/
abbrev Word := BitVec 32

/-- One operand or result port, and the wide unsigned integer of R80: 128 bits. -/
abbrev Wide := BitVec 128

/-- One 64-bit half of a wide integer (R80). -/
abbrev Half := BitVec 64

end Sys2Proof
end

