-- ==== Sys2Proof/Machine/Bits.lean ====
section
/-! DEFINITION. Reading bits of a vector as a number (spec 00_scope.md R6, R7). -/

namespace Sys2Proof

/-- `v[hi:lo]` read as an unsigned number (R6, R7). -/
def bits {n : Nat} (v : BitVec n) (hi lo : Nat) : Nat := (v.extractLsb hi lo).toNat

end Sys2Proof
end

