-- ==== Sys2Proof/Syntax.lean ====
section
/-! DEFINITION. The commands, one constructor per row of spec/opcode_table.json (30_encoding.md R58).
The numeric fields are the unsigned numbers R51 reads from the word; WellFormed.lean bounds them by
the widths of their fields. -/

namespace Sys2Proof

/-- The storage width that the field `w` selects (R52). -/
inductive Width where
  | w32
  | w64
deriving DecidableEq, Repr

/-- The five rounding modes (R54). -/
inductive RoundingMode where
  | rne
  | rha
  | rdn
  | rup
  | rtz
deriving DecidableEq, Repr

/-- The six formats of R57: which fields a command uses. -/
inductive Format where
  | A
  | S
  | P
  | F
  | R
  | X
deriving DecidableEq, Repr

/-- The commands of R58. `w` is the storage width, `rm` the number in the mode field, `sc` the number in
the field `s` (a scale, or the digit count of DIVPOW10), `tc` the number in the field `t`, `sh` the shift
amount. -/
inductive Instr where
  | add128
  | sub128
  | cmp128
  | shl128 (sh : Nat)
  | shr128 (sh : Nat)
  | mul128
  | mul128x64
  | div128by64
  | divpow10 (sc : Nat)
  | fmulW (w : Width) (rm : Nat) (sc : Nat)
  | fmulC (w : Width) (rm : Nat) (sc : Nat)
  | fdivW (w : Width) (rm : Nat) (sc : Nat)
  | fdivC (w : Width) (rm : Nat) (sc : Nat)
  | rescaleC (w : Width) (rm : Nat) (sc : Nat) (tc : Nat)
  | fromdecW (w : Width) (sc : Nat)
  | fromdecC (w : Width) (sc : Nat)
  | todec (w : Width) (sc : Nat)
  | faddW (w : Width) (sc : Nat)
  | faddC (w : Width) (sc : Nat)
  | fsubW (w : Width) (sc : Nat)
  | fsubC (w : Width) (sc : Nat)
  | fnegW (w : Width) (sc : Nat)
  | fnegC (w : Width) (sc : Nat)
  | fabsW (w : Width) (sc : Nat)
  | fabsC (w : Width) (sc : Nat)
  | fincW (w : Width) (sc : Nat)
  | fincC (w : Width) (sc : Nat)
  | fdecW (w : Width) (sc : Nat)
  | fdecC (w : Width) (sc : Nat)
  | fcmp (w : Width) (sc : Nat)
  | fclass (w : Width) (sc : Nat)
deriving DecidableEq, Repr

end Sys2Proof
end

