-- ==== Sys2Proof/WellFormed.lean ====
section
/-! DEFINITION. When a command can be written as a command word: each number fits the width of its field
(30_encoding.md R51). A scale or a mode that fits its field and is out of its legal range is well formed:
such a word decodes to a command, which then faults (R53, R54, R59). -/

namespace Sys2Proof

/-- The fields `s` and `t` are 6 bits wide (R51). -/
def scaleFits (n : Nat) : Bool := decide (n < 64)

/-- The field `rm` is 3 bits wide (R51). -/
def modeFits (n : Nat) : Bool := decide (n < 8)

/-- The field `sh` is 7 bits wide (R51, R55). -/
def shiftFits (n : Nat) : Bool := decide (n < 128)

def Instr.wellFormed : Instr → Bool
  | .add128 => true
  | .sub128 => true
  | .cmp128 => true
  | .shl128 sh => shiftFits sh
  | .shr128 sh => shiftFits sh
  | .mul128 => true
  | .mul128x64 => true
  | .div128by64 => true
  | .divpow10 sc => scaleFits sc
  | .fmulW _ rm sc => modeFits rm && scaleFits sc
  | .fmulC _ rm sc => modeFits rm && scaleFits sc
  | .fdivW _ rm sc => modeFits rm && scaleFits sc
  | .fdivC _ rm sc => modeFits rm && scaleFits sc
  | .rescaleC _ rm sc tc => modeFits rm && scaleFits sc && scaleFits tc
  | .fromdecW _ sc => scaleFits sc
  | .fromdecC _ sc => scaleFits sc
  | .todec _ sc => scaleFits sc
  | .faddW _ sc => scaleFits sc
  | .faddC _ sc => scaleFits sc
  | .fsubW _ sc => scaleFits sc
  | .fsubC _ sc => scaleFits sc
  | .fnegW _ sc => scaleFits sc
  | .fnegC _ sc => scaleFits sc
  | .fabsW _ sc => scaleFits sc
  | .fabsC _ sc => scaleFits sc
  | .fincW _ sc => scaleFits sc
  | .fincC _ sc => scaleFits sc
  | .fdecW _ sc => scaleFits sc
  | .fdecC _ sc => scaleFits sc
  | .fcmp _ sc => scaleFits sc
  | .fclass _ sc => scaleFits sc

/-- A command that some command word encodes. -/
abbrev Instr.WellFormed (i : Instr) : Prop := i.wellFormed = true

end Sys2Proof
end

