-- ==== Sys2Proof/Decode.lean ====
section
/-! DEFINITION. The decoder and the encoder of command words (30_encoding.md R50 to R62). The decoder is total:
every word is a command or is turned away by a name, and the machine answers each such name with the one
fault IllegalCommand (R60, R216). -/

namespace Sys2Proof

/-- Why a word is no command (R59, R60). -/
inductive DecodeError where
  /-- Bit 31 is set. -/
  | topBitSet
  /-- The opcode is none of the 31 of R58. -/
  | unknownOpcode
  /-- A field that the command's format does not use is not zero. -/
  | unusedFieldNonzero
deriving DecidableEq, Repr

/-- The numbers in the fields of a command word other than the opcode and bit 31 (R51). -/
structure Fields where
  w : Nat
  rm : Nat
  s : Nat
  t : Nat
  sh : Nat
deriving DecidableEq, Repr

/-- Every field zero. -/
def Fields.none : Fields := ⟨0, 0, 0, 0, 0⟩

/-- The fields of a word, at the places of R51. -/
def fieldsOf (c : Word) : Fields :=
  ⟨bits c 8 8, bits c 11 9, bits c 17 12, bits c 23 18, bits c 30 24⟩

/-- `Wsel` (R52): 0 selects the 32-bit variant, 1 the 64-bit variant. -/
def Width.ofBit (n : Nat) : Width := if n = 0 then .w32 else .w64

/-- The field `w` of a storage width (R52). -/
def Width.toBit : Width → Nat
  | .w32 => 0
  | .w64 => 1

/-- The fields a format does not use are zero (R57, column "must be zero"). -/
def Format.unusedZero (f : Fields) : Format → Bool
  | .A => f.w == 0 && f.rm == 0 && f.s == 0 && f.t == 0 && f.sh == 0
  | .S => f.w == 0 && f.rm == 0 && f.s == 0 && f.t == 0
  | .P => f.w == 0 && f.rm == 0 && f.t == 0 && f.sh == 0
  | .F => f.t == 0 && f.sh == 0
  | .R => f.sh == 0
  | .X => f.rm == 0 && f.t == 0 && f.sh == 0

/-- The bits a format fixes (R57, column "mask"). -/
def Format.mask : Format → Word
  | .A => 0xFFFFFFFF#32
  | .S => 0x80FFFFFF#32
  | .P => 0xFFFC0FFF#32
  | .F => 0xFFFC00FF#32
  | .R => 0xFF0000FF#32
  | .X => 0xFFFC0EFF#32

/-- The opcode map of R58: an opcode's format, and its command with the numbers it uses. -/
def commandOf (opcode : Nat) (f : Fields) : Option (Format × Instr) :=
  match opcode with
  | 0x01 => some (.A, .add128)
  | 0x02 => some (.A, .sub128)
  | 0x03 => some (.A, .cmp128)
  | 0x04 => some (.S, .shl128 f.sh)
  | 0x05 => some (.S, .shr128 f.sh)
  | 0x06 => some (.A, .mul128)
  | 0x07 => some (.A, .mul128x64)
  | 0x08 => some (.A, .div128by64)
  | 0x10 => some (.P, .divpow10 f.s)
  | 0x20 => some (.F, .fmulW (Width.ofBit f.w) f.rm f.s)
  | 0x21 => some (.F, .fmulC (Width.ofBit f.w) f.rm f.s)
  | 0x22 => some (.F, .fdivW (Width.ofBit f.w) f.rm f.s)
  | 0x23 => some (.F, .fdivC (Width.ofBit f.w) f.rm f.s)
  | 0x25 => some (.R, .rescaleC (Width.ofBit f.w) f.rm f.s f.t)
  | 0x30 => some (.X, .fromdecW (Width.ofBit f.w) f.s)
  | 0x31 => some (.X, .fromdecC (Width.ofBit f.w) f.s)
  | 0x32 => some (.X, .todec (Width.ofBit f.w) f.s)
  | 0x40 => some (.X, .faddW (Width.ofBit f.w) f.s)
  | 0x41 => some (.X, .faddC (Width.ofBit f.w) f.s)
  | 0x42 => some (.X, .fsubW (Width.ofBit f.w) f.s)
  | 0x43 => some (.X, .fsubC (Width.ofBit f.w) f.s)
  | 0x44 => some (.X, .fnegW (Width.ofBit f.w) f.s)
  | 0x45 => some (.X, .fnegC (Width.ofBit f.w) f.s)
  | 0x46 => some (.X, .fabsW (Width.ofBit f.w) f.s)
  | 0x47 => some (.X, .fabsC (Width.ofBit f.w) f.s)
  | 0x48 => some (.X, .fincW (Width.ofBit f.w) f.s)
  | 0x49 => some (.X, .fincC (Width.ofBit f.w) f.s)
  | 0x4A => some (.X, .fdecW (Width.ofBit f.w) f.s)
  | 0x4B => some (.X, .fdecC (Width.ofBit f.w) f.s)
  | 0x4C => some (.X, .fcmp (Width.ofBit f.w) f.s)
  | 0x4E => some (.X, .fclass (Width.ofBit f.w) f.s)
  | _ => none

/-- `decode` of R59. It looks neither at the range of a scale or mode nor at the operands. -/
def decode (c : Word) : Except DecodeError Instr :=
  if bits c 31 31 ≠ 0 then .error .topBitSet
  else
    match commandOf (bits c 7 0) (fieldsOf c) with
    | none => .error .unknownOpcode
    | some (format, i) =>
      if format.unusedZero (fieldsOf c) then .ok i else .error .unusedFieldNonzero

/-- The instruction read from a table word: the word as the command port carries it (the unit has no bytes,
20_memory.md R41). -/
def decodeTableWord (nbits w : Nat) : Option Instr :=
  (decode (BitVec.ofNat 32 (w % 2 ^ nbits))).toOption

/-- The opcode number of a command (R58). -/
def Instr.opcode : Instr → BitVec 8
  | .add128 => 0x01#8
  | .sub128 => 0x02#8
  | .cmp128 => 0x03#8
  | .shl128 _ => 0x04#8
  | .shr128 _ => 0x05#8
  | .mul128 => 0x06#8
  | .mul128x64 => 0x07#8
  | .div128by64 => 0x08#8
  | .divpow10 _ => 0x10#8
  | .fmulW _ _ _ => 0x20#8
  | .fmulC _ _ _ => 0x21#8
  | .fdivW _ _ _ => 0x22#8
  | .fdivC _ _ _ => 0x23#8
  | .rescaleC _ _ _ _ => 0x25#8
  | .fromdecW _ _ => 0x30#8
  | .fromdecC _ _ => 0x31#8
  | .todec _ _ => 0x32#8
  | .faddW _ _ => 0x40#8
  | .faddC _ _ => 0x41#8
  | .fsubW _ _ => 0x42#8
  | .fsubC _ _ => 0x43#8
  | .fnegW _ _ => 0x44#8
  | .fnegC _ _ => 0x45#8
  | .fabsW _ _ => 0x46#8
  | .fabsC _ _ => 0x47#8
  | .fincW _ _ => 0x48#8
  | .fincC _ _ => 0x49#8
  | .fdecW _ _ => 0x4A#8
  | .fdecC _ _ => 0x4B#8
  | .fcmp _ _ => 0x4C#8
  | .fclass _ _ => 0x4E#8

/-- The format of a command (R58). -/
def Instr.format : Instr → Format
  | .add128 => .A
  | .sub128 => .A
  | .cmp128 => .A
  | .shl128 _ => .S
  | .shr128 _ => .S
  | .mul128 => .A
  | .mul128x64 => .A
  | .div128by64 => .A
  | .divpow10 _ => .P
  | .fmulW _ _ _ => .F
  | .fmulC _ _ _ => .F
  | .fdivW _ _ _ => .F
  | .fdivC _ _ _ => .F
  | .rescaleC _ _ _ _ => .R
  | .fromdecW _ _ => .X
  | .fromdecC _ _ => .X
  | .todec _ _ => .X
  | .faddW _ _ => .X
  | .faddC _ _ => .X
  | .fsubW _ _ => .X
  | .fsubC _ _ => .X
  | .fnegW _ _ => .X
  | .fnegC _ _ => .X
  | .fabsW _ _ => .X
  | .fabsC _ _ => .X
  | .fincW _ _ => .X
  | .fincC _ _ => .X
  | .fdecW _ _ => .X
  | .fdecC _ _ => .X
  | .fcmp _ _ => .X
  | .fclass _ _ => .X

/-- The numbers a command puts into its fields; the fields it does not use are zero (R57). -/
def Instr.fields : Instr → Fields
  | .add128 => Fields.none
  | .sub128 => Fields.none
  | .cmp128 => Fields.none
  | .shl128 sh => { Fields.none with sh := sh }
  | .shr128 sh => { Fields.none with sh := sh }
  | .mul128 => Fields.none
  | .mul128x64 => Fields.none
  | .div128by64 => Fields.none
  | .divpow10 sc => { Fields.none with s := sc }
  | .fmulW w rm sc => { Fields.none with w := w.toBit, rm := rm, s := sc }
  | .fmulC w rm sc => { Fields.none with w := w.toBit, rm := rm, s := sc }
  | .fdivW w rm sc => { Fields.none with w := w.toBit, rm := rm, s := sc }
  | .fdivC w rm sc => { Fields.none with w := w.toBit, rm := rm, s := sc }
  | .rescaleC w rm sc tc => { Fields.none with w := w.toBit, rm := rm, s := sc, t := tc }
  | .fromdecW w sc => { Fields.none with w := w.toBit, s := sc }
  | .fromdecC w sc => { Fields.none with w := w.toBit, s := sc }
  | .todec w sc => { Fields.none with w := w.toBit, s := sc }
  | .faddW w sc => { Fields.none with w := w.toBit, s := sc }
  | .faddC w sc => { Fields.none with w := w.toBit, s := sc }
  | .fsubW w sc => { Fields.none with w := w.toBit, s := sc }
  | .fsubC w sc => { Fields.none with w := w.toBit, s := sc }
  | .fnegW w sc => { Fields.none with w := w.toBit, s := sc }
  | .fnegC w sc => { Fields.none with w := w.toBit, s := sc }
  | .fabsW w sc => { Fields.none with w := w.toBit, s := sc }
  | .fabsC w sc => { Fields.none with w := w.toBit, s := sc }
  | .fincW w sc => { Fields.none with w := w.toBit, s := sc }
  | .fincC w sc => { Fields.none with w := w.toBit, s := sc }
  | .fdecW w sc => { Fields.none with w := w.toBit, s := sc }
  | .fdecC w sc => { Fields.none with w := w.toBit, s := sc }
  | .fcmp w sc => { Fields.none with w := w.toBit, s := sc }
  | .fclass w sc => { Fields.none with w := w.toBit, s := sc }

/-- The word of an opcode and its fields: the pattern of R51, bit 31 on the left. -/
def packWord (opcode : BitVec 8) (f : Fields) : Word :=
  0#1 ++ BitVec.ofNat 7 f.sh ++ BitVec.ofNat 6 f.t ++ BitVec.ofNat 6 f.s ++ BitVec.ofNat 3 f.rm
    ++ BitVec.ofNat 1 f.w ++ opcode

/-- The command word of a well-formed command. -/
def encode (i : Instr) : Word := packWord i.opcode i.fields

end Sys2Proof
end

