-- ==== Sys2Proof/Machine/Operands.lean ====
section
/-! DEFINITION. The operand and result forms of 30_encoding.md R58 and the primitives of 00_scope.md R7: u128 (the port
itself), u64, sW, the interchange decimal, and the narrowing of an exact result. An operand narrower than
its port is the low bits of it; the bits above are ignored (10_state.md R22). -/

namespace Sys2Proof

/-- `W` of R5 and R52. -/
def Width.bits : Width → Nat
  | .w32 => 32
  | .w64 => 64

/-- `MAXSCALE(W)` of R5. -/
def Width.maxScale : Width → Nat
  | .w32 => 9
  | .w64 => 18

/-- `DMAX` of R5: the largest digit count of the power-of-ten divider. -/
def maxDigits : Nat := 38

/-- `DECSCALEMAX` of R5: the largest scale of the interchange decimal. -/
def maxDecimalScale : Nat := 28

/-- `2^(W-1)`, the bound of the signed range (R7). -/
def Width.half (w : Width) : Nat := 2 ^ (w.bits - 1)

/-- `pow10` of R7. -/
def pow10 (k : Nat) : Nat := 10 ^ k

/-- The form u64: the low 64 bits of a port (R22, R58). -/
def operandU64 (x : Wide) : Half := x.setWidth 64

/-- The form sW: `sint_W(x[W-1:0])` (R7, R58). -/
def Width.sint (w : Width) (x : Wide) : Int := (x.setWidth w.bits).toInt

/-- `fits_W` of R7. -/
def Width.fits (w : Width) (v : Int) : Bool := decide (-(w.half : Int) ≤ v ∧ v ≤ (w.half : Int) - 1)

/-- `zext_128(wrap_W(v))` (R7, R23). -/
def Width.wrap (w : Width) (v : Int) : Wide := (BitVec.ofInt w.bits v).setWidth 128

/-- An interchange decimal's parts (43_interchange_bridge.md R130, R131). -/
structure Decimal where
  neg : Bool
  scale : Nat
  magnitude : Nat
deriving DecidableEq, Repr

/-- `DecodeDec` of R131; `none` is Malformed. -/
def decodeDec (x : Wide) : Option Decimal :=
  if bits x 126 120 ≠ 0 ∨ bits x 111 96 ≠ 0 then none
  else if maxDecimalScale < bits x 119 112 then none
  else some ⟨bits x 127 127 == 1, bits x 119 112, bits x 95 0⟩

/-- `EncodeDec` of R132. -/
def encodeDec (d : Decimal) : Wide :=
  BitVec.ofBool d.neg ++ 0#7 ++ BitVec.ofNat 8 d.scale ++ 0#16 ++ BitVec.ofNat 96 d.magnitude

end Sys2Proof
end

