-- ==== Sys2Proof/Machine/Rounding.lean ====
section
/-! DEFINITION. The rounding policy (42_rounding_policy.md R120 to R127). It is a function, not a command. All arithmetic
is on unbounded naturals (R120). -/

namespace Sys2Proof

/-- The modes by their numbers; 5, 6 and 7 are none (30_encoding.md R54). -/
def RoundingMode.ofNumber : Nat → Option RoundingMode
  | 0 => some .rne
  | 1 => some .rha
  | 2 => some .rdn
  | 3 => some .rup
  | 4 => some .rtz
  | _ => none

/-- `RoundInc` (R121 to R125): whether the magnitude `q` becomes `q + 1`, given the remainder `r` of a division by `d`
and the sign of the true result. -/
def roundInc (q r d : Nat) (neg : Bool) : RoundingMode → Bool
  | .rne => decide (2 * r + q % 2 > d)
  | .rha => decide (2 * r ≥ d)
  | .rdn => decide (r ≠ 0) && neg
  | .rup => decide (r ≠ 0) && !neg
  | .rtz => false

/-- Reattach the sign to a magnitude (R120). -/
def signed (neg : Bool) (q : Nat) : Int := if neg then -(q : Int) else (q : Int)

/-- The rounded signed quotient of the magnitudes `n` and `d` (R120): divide, round by the policy, reattach the sign. -/
def roundedQuotient (n d : Nat) (neg : Bool) (m : RoundingMode) : Int :=
  let q := n / d
  let r := n % d
  signed neg (q + if roundInc q r d neg m then 1 else 0)

end Sys2Proof
end

