-- ==== Sys2Proof/Machine/Rom.lean ====
section
/-! DEFINITION. The constant table of the power-of-ten divider (10_state.md R21; 41_magic_divider.md R102, R107). -/

namespace Sys2Proof.Machine

/-- One entry of the table, with the widths of R21. -/
structure RomEntry where
  divisorHigh : Half
  divisorLow : Half
  magicHigh : Half
  magicLow : Half
  preShift : BitVec 7
  postShift : BitVec 7
deriving DecidableEq, Repr

/-- The 39 entries (R21: one per digit count 0 to 38). -/
abbrev Rom := Vector RomEntry 39

/-- The contents of R102, row `d` at index `d`. -/
def romTable : Rom :=
  #v[
    ⟨0x0000000000000000#64, 0x0000000000000001#64, 0x0000000000000000#64, 0x0000000000000000#64, 0#7, 0#7⟩,
    ⟨0x0000000000000000#64, 0x000000000000000A#64, 0xCCCCCCCCCCCCCCCC#64, 0xCCCCCCCCCCCCCCCD#64, 1#7, 2#7⟩,
    ⟨0x0000000000000000#64, 0x0000000000000064#64, 0x51EB851EB851EB85#64, 0x1EB851EB851EB852#64, 2#7, 3#7⟩,
    ⟨0x0000000000000000#64, 0x00000000000003E8#64, 0x20C49BA5E353F7CE#64, 0xD916872B020C49BB#64, 3#7, 4#7⟩,
    ⟨0x0000000000000000#64, 0x0000000000002710#64, 0x1A36E2EB1C432CA5#64, 0x7A786C226809D496#64, 4#7, 6#7⟩,
    ⟨0x0000000000000000#64, 0x00000000000186A0#64, 0x0A7C5AC471B47842#64, 0x30FCF80DC33721D6#64, 5#7, 7#7⟩,
    ⟨0x0000000000000000#64, 0x00000000000F4240#64, 0x0431BDE82D7B634D#64, 0xAD31FCD24E160D89#64, 6#7, 8#7⟩,
    ⟨0x0000000000000000#64, 0x0000000000989680#64, 0x035AFE535795E90A#64, 0xF0F4CA41D811A46E#64, 7#7, 10#7⟩,
    ⟨0x0000000000000000#64, 0x0000000005F5E100#64, 0x015798EE2308C39D#64, 0xF9FB841A566D74F9#64, 8#7, 11#7⟩,
    ⟨0x0000000000000000#64, 0x000000003B9ACA00#64, 0x0089705F4136B4A5#64, 0x9731680A88F89531#64, 9#7, 12#7⟩,
    ⟨0x0000000000000000#64, 0x00000002540BE400#64, 0x006DF37F675EF6EA#64, 0xDF5AB9A2072D4427#64, 10#7, 14#7⟩,
    ⟨0x0000000000000000#64, 0x000000174876E800#64, 0x002BFAFFC2F2C92A#64, 0xBFBDE3DA69454E76#64, 11#7, 15#7⟩,
    ⟨0x0000000000000000#64, 0x000000E8D4A51000#64, 0x00119799812DEA11#64, 0x197F27F0F6E885C9#64, 12#7, 16#7⟩,
    ⟨0x0000000000000000#64, 0x000009184E72A000#64, 0x000E12E13424BB40#64, 0xE132865A5F206B07#64, 13#7, 18#7⟩,
    ⟨0x0000000000000000#64, 0x00005AF3107A4000#64, 0x0005A126E1A84AE6#64, 0xC07A9C24260CF79D#64, 14#7, 19#7⟩,
    ⟨0x0000000000000000#64, 0x00038D7EA4C68000#64, 0x00024075F3DCEAC2#64, 0xB3643E74DC052FD9#64, 15#7, 20#7⟩,
    ⟨0x0000000000000000#64, 0x002386F26FC10000#64, 0x0001CD2B297D889B#64, 0xC2B6985D7CD0F314#64, 16#7, 22#7⟩,
    ⟨0x0000000000000000#64, 0x016345785D8A0000#64, 0x0000B877AA3236A4#64, 0xB44909BEFEB9FAD5#64, 17#7, 23#7⟩,
    ⟨0x0000000000000000#64, 0x0DE0B6B3A7640000#64, 0x000049C97747490E#64, 0xAE839D7F99173122#64, 18#7, 24#7⟩,
    ⟨0x0000000000000000#64, 0x8AC7230489E80000#64, 0x00003B07929F6DA5#64, 0x58694ACC7A78F41C#64, 19#7, 26#7⟩,
    ⟨0x0000000000000005#64, 0x6BC75E2D63100000#64, 0x0000179CA10C9242#64, 0x235D511E976394D8#64, 20#7, 27#7⟩,
    ⟨0x0000000000000036#64, 0x35C9ADC5DEA00000#64, 0x00000971DA05074D#64, 0xA7BEED3F6FC16EBD#64, 21#7, 28#7⟩,
    ⟨0x000000000000021E#64, 0x19E0C9BAB2400000#64, 0x0000078E480405D7#64, 0xB9658A9926345897#64, 22#7, 30#7⟩,
    ⟨0x000000000000152D#64, 0x02C7E14AF6800000#64, 0x00000305B6680256#64, 0x4A289DD6DC14F03D#64, 23#7, 31#7⟩,
    ⟨0x000000000000D3C2#64, 0x1BCECCEDA1000000#64, 0x000001357C299A88#64, 0xEA76A58924D52CE5#64, 24#7, 32#7⟩,
    ⟨0x0000000000084595#64, 0x161401484A000000#64, 0x000000F79687AED3#64, 0xEEC5513A83DDBD84#64, 25#7, 34#7⟩,
    ⟨0x000000000052B7D2#64, 0xDCC80CD2E4000000#64, 0x00000063090312BB#64, 0x2C4EED4A9B257F02#64, 26#7, 35#7⟩,
    ⟨0x00000000033B2E3C#64, 0x9FD0803CE8000000#64, 0x000000279D346DE4#64, 0x781F921DD7A89934#64, 27#7, 36#7⟩,
    ⟨0x00000000204FCE5E#64, 0x3E25026110000000#64, 0x0000001FB0F6BE50#64, 0x601941B17953ADC4#64, 28#7, 38#7⟩,
    ⟨0x00000001431E0FAE#64, 0x6D7217CAA0000000#64, 0x0000000CAD2F7F53#64, 0x59A3B3E096EE4582#64, 29#7, 39#7⟩,
    ⟨0x0000000C9F2C9CD0#64, 0x4674EDEA40000000#64, 0x000000051212FFBA#64, 0xF0A7E18D092C1BCE#64, 30#7, 40#7⟩,
    ⟨0x0000007E37BE2022#64, 0xC0914B2680000000#64, 0x00000002073ACCB1#64, 0x2D0FF3D203AB3E53#64, 31#7, 41#7⟩,
    ⟨0x000004EE2D6D415B#64, 0x85ACEF8100000000#64, 0x000000019F623D5A#64, 0x8A732974CFBC31DC#64, 32#7, 43#7⟩,
    ⟨0x0000314DC6448D93#64, 0x38C15B0A00000000#64, 0x00000000A6274BBD#64, 0xD0FADD61ECB1AD8B#64, 33#7, 44#7⟩,
    ⟨0x0001ED09BEAD87C0#64, 0x378D8E6400000000#64, 0x0000000042761E4B#64, 0xED31255A5EAD789E#64, 34#7, 45#7⟩,
    ⟨0x0013426172C74D82#64, 0x2B878FE800000000#64, 0x00000000352B4B6F#64, 0xF0F41DE1E55793B2#64, 35#7, 47#7⟩,
    ⟨0x00C097CE7BC90715#64, 0xB34B9F1000000000#64, 0x0000000015448493#64, 0x2D2E725A5BBCA17B#64, 36#7, 48#7⟩,
    ⟨0x0785EE10D5DA46D9#64, 0x00F436A000000000#64, 0x000000000881CEA1#64, 0x4545C75757E50D65#64, 37#7, 49#7⟩,
    ⟨0x4B3B4CA85A86C47A#64, 0x098A224000000000#64, 0x0000000006CE3EE7#64, 0x6A9E3912ACB73DEA#64, 38#7, 51#7⟩
  ]

/-- `10^d` as the entry holds it: `{divisorHigh, divisorLow}` (R21). -/
def RomEntry.divisor (e : RomEntry) : Wide := e.divisorHigh ++ e.divisorLow

/-- The 128-bit reciprocal constant `{magicHigh, magicLow}` (R102). -/
def RomEntry.magic (e : RomEntry) : Wide := e.magicHigh ++ e.magicLow

end Sys2Proof.Machine
end

