-- ==== Sys2Proof/Machine/State.lean ====
section
/-! DEFINITION. The state of the unit (10_state.md R20 to R33). There are no registers, no program counter, no flags,
no control registers and no memory (R26 to R31): the unit holds a phase, the response it gave last, and the
constant table. The field `schedule` is the model's own. -/

namespace Sys2Proof.Machine

/-- A command as the host issues it: the word and its two operands (R22). -/
structure Command where
  word : Word
  opa : Wide
  opb : Wide
deriving DecidableEq, Repr

/-- The phase of R24: no command in flight, or one, with its word and operands latched at issue. -/
inductive Phase where
  | idle
  | busy (c : Command)
deriving DecidableEq, Repr

/-- The faults a command can report (60_exceptions.md R211). They are statuses of a response, not stops of the
machine. -/
inductive CommandFault where
  /-- A checked result does not fit the storage width (R212). -/
  | overflow
  /-- The divisor is zero (R213). -/
  | divideByZero
  /-- The mode field holds 5, 6 or 7 (R214). -/
  | invalidRoundingMode
  /-- A scale or a digit count is out of its range (R215). -/
  | invalidScale
  /-- The word is no command (R216). -/
  | illegalCommand
  /-- The operand is no well-formed interchange decimal (R217). -/
  | invalidOperand
deriving DecidableEq, Repr

/-- A response (R23): status OK with its two values, or a fault alone. On a fault `res` and `aux` carry no value, and a
model gives them none (R23, R210). -/
inductive Response where
  | ok (res aux : Wide)
  | fault (f : CommandFault)
deriving DecidableEq, Repr

/-- What the two agents of R24 do next, and what the reset input does (R240). DESIGN CHOICE (log 1). -/
inductive Event where
  /-- The host issues a command; while the unit is BUSY the port is not ready and the command waits. -/
  | issue (c : Command)
  /-- The host makes no move; a unit that is BUSY takes `complete`. -/
  | wait
  /-- The host makes no move and the latency of a command in flight has not run out (R243). -/
  | hold
  /-- The reset input is applied (R240). -/
  | reset
deriving DecidableEq, Repr

/-- The state of one unit. -/
structure State where
  /-- R24. -/
  phase : Phase
  /-- The response emitted last and not yet followed by an issue or a reset; none when no response is pending (R33; log 3). -/
  response : Option Response
  /-- The constant table (R21). -/
  rom : Rom
  /-- The MODEL's own field: what the agents do next, first event first (log 1). When it is empty the host
  makes no move. -/
  schedule : List Event
deriving DecidableEq, Repr

/-- What stops the machine: nothing. The unit "does not stop, lock up or need a reset after any fault" (R210), every
command terminates with a response (R244), and there is no address that could be missing (R40). -/
inductive Fault
deriving DecidableEq, Repr

/-- What the model has no transition for. -/
inductive Refusal where
  /-- Raised by exec for an instruction that has no meaning yet; safe. No instruction is left so. -/
  | notModelled (mnemonic : String)
  /-- Raised by a meaning asked to complete a command while the phase is IDLE: `complete` is a step from BUSY only
  (R24), and there are no operands. The step function never asks for it; safe (log 4). -/
  | noCommandInFlight
deriving DecidableEq, Repr

/-- The state after reset (R33, R240): IDLE, no response pending, the table of R102. -/
def State.reset : State where
  phase := .idle
  response := none
  rom := romTable
  schedule := []

end Sys2Proof.Machine
end

