-- ==== Sys2Proof/Machine/Ops.lean ====
section
/-! DEFINITION. The named operations the meanings share: completing a command with a response, raising a fault, the checks
every command makes in the order of 60_exceptions.md R218, narrowing a result, and the moves of the host. -/

namespace Sys2Proof.Machine

/-- `respond(res, aux)` (00_scope.md R7): status OK with these values. -/
def respond (res aux : Wide) : Response := .ok res aux

/-- `raise <Fault>` (R7, R210): the response is the fault alone. This is all there is of taking an exception: no state is
saved, no mode changes, control goes nowhere (R222). Nor is there a return from one (R223): the phase is IDLE
again as after any command. -/
def raise (f : CommandFault) : Response := .fault f

/-- The status codes of R211. -/
def CommandFault.code : CommandFault → BitVec 4
  | .overflow => 1#4
  | .divideByZero => 2#4
  | .invalidRoundingMode => 3#4
  | .invalidScale => 4#4
  | .illegalCommand => 5#4
  | .invalidOperand => 6#4

/-- `status` on the response port (R23, R211); 0 is OK. -/
def Response.status : Response → BitVec 4
  | .ok _ _ => 0#4
  | .fault f => f.code

/-- `complete` of R24 with the response `r`: the response is emitted and the phase is IDLE. -/
def State.completed (s : State) (r : Response) : State := { s with phase := .idle, response := some r }

/-- `issue` of R24: the word and the operands are latched, and no response is pending. -/
def State.issued (s : State) (c : Command) : State := { s with phase := .busy c, response := none }

/-- Reset (70_reset_and_hazards.md R240): IDLE, a command in flight is dropped without a response, the table is
unchanged. -/
def State.resetInput (s : State) : State := { s with phase := .idle, response := none }

/-- Complete the command in flight with the response that its rule `f` gives for the latched operands. Every meaning is this
operation applied to the command's rule. -/
def completeWith (s : State) (f : Wide → Wide → Response) : Host.Outcome State Fault Refusal :=
  match s.phase with
  | .busy c => .next (s.completed (f c.opa c.opb))
  | .idle => .refused .noCommandInFlight

/-- A word that is no command completes with IllegalCommand; the operands are not looked at (R216). -/
def completeIllegal (s : State) : Host.Outcome State Fault Refusal :=
  completeWith s fun _ _ => raise .illegalCommand

/-- The state after the next event of the schedule, and the command that completes in this step, if one does (R24, R240;
log 1). An issue that stands first while the unit is BUSY stays there. -/
def turn (s : State) : State × Option Command :=
  match s.phase, s.schedule with
  | _, .reset :: rest => (State.resetInput { s with schedule := rest }, none)
  | _, .hold :: rest => ({ s with schedule := rest }, none)
  | .idle, .issue c :: rest => (State.issued { s with schedule := rest } c, none)
  | .idle, .wait :: rest => ({ s with schedule := rest }, none)
  | .idle, [] => (s, none)
  | .busy c, .wait :: rest => ({ s with schedule := rest }, some c)
  | .busy c, .issue _ :: _ => (s, some c)
  | .busy c, [] => (s, some c)

/-- The scale check that every command with a scale makes first (R215). -/
def checkScale (w : Width) (sc : Nat) (k : Response) : Response :=
  if w.maxScale < sc then raise .invalidScale else k

/-- The mode check that every command with a mode makes next (R126, R214), whether or not it will round. -/
def checkMode (rm : Nat) (k : RoundingMode → Response) : Response :=
  match RoundingMode.ofNumber rm with
  | some m => k m
  | none => raise .invalidRoundingMode

/-- The wrapping form's last line (44_fixed_addsub.md R150): the exact result reduced modulo `2^W`. -/
def narrowWrapping (w : Width) (v : Int) : Response := respond (w.wrap v) 0

/-- The checked form's last lines (R150, R212): Overflow when the exact result does not fit, else as the wrapping form. -/
def narrowChecked (w : Width) (v : Int) : Response :=
  if w.fits v then narrowWrapping w v else raise .overflow

/-- The check of a zero divisor (R213). -/
def checkDivisor (isZero : Bool) (k : Response) : Response :=
  if isZero then raise .divideByZero else k

end Sys2Proof.Machine
end

