-- ==== Sys2Proof/Machine/AddSub.lean ====
section
/-! DEFINITION. Fixed-point add, subtract, negate, absolute value, increment, decrement (44_fixed_addsub.md R150 to R163).
Every one checks its scale first, takes signed operands, forms the exact result, and narrows it (R150). -/

namespace Sys2Proof.Machine

/-- What the twelve commands share (R150): the scale check, then `narrow` of the exact result. -/
def completeFixed (w : Width) (sc : Nat) (s : State) (narrow : Width → Int → Response) (exact : Int → Int → Int) :
    Host.Outcome State Fault Refusal :=
  completeWith s fun opa opb => checkScale w sc (narrow w (exact (w.sint opa) (w.sint opb)))

/-- R151, the wrapping form. -/
def execFaddW (w : Width) (sc : Nat) (s : State) : Host.Outcome State Fault Refusal :=
  completeFixed w sc s narrowWrapping (fun a b => a + b)

/-- R152, the checked form. -/
def execFaddC (w : Width) (sc : Nat) (s : State) : Host.Outcome State Fault Refusal :=
  completeFixed w sc s narrowChecked (fun a b => a + b)

/-- R153, the wrapping form. -/
def execFsubW (w : Width) (sc : Nat) (s : State) : Host.Outcome State Fault Refusal :=
  completeFixed w sc s narrowWrapping (fun a b => a - b)

/-- R154, the checked form. -/
def execFsubC (w : Width) (sc : Nat) (s : State) : Host.Outcome State Fault Refusal :=
  completeFixed w sc s narrowChecked (fun a b => a - b)

/-- R155, the wrapping form. -/
def execFnegW (w : Width) (sc : Nat) (s : State) : Host.Outcome State Fault Refusal :=
  completeFixed w sc s narrowWrapping (fun a _ => -a)

/-- R156, the checked form. -/
def execFnegC (w : Width) (sc : Nat) (s : State) : Host.Outcome State Fault Refusal :=
  completeFixed w sc s narrowChecked (fun a _ => -a)

/-- R157, the wrapping form. -/
def execFabsW (w : Width) (sc : Nat) (s : State) : Host.Outcome State Fault Refusal :=
  completeFixed w sc s narrowWrapping (fun a _ => (a.natAbs : Int))

/-- R158, the checked form. -/
def execFabsC (w : Width) (sc : Nat) (s : State) : Host.Outcome State Fault Refusal :=
  completeFixed w sc s narrowChecked (fun a _ => (a.natAbs : Int))

/-- R159, the wrapping form. -/
def execFincW (w : Width) (sc : Nat) (s : State) : Host.Outcome State Fault Refusal :=
  completeFixed w sc s narrowWrapping (fun a _ => a + (pow10 sc : Nat))

/-- R160, the checked form. -/
def execFincC (w : Width) (sc : Nat) (s : State) : Host.Outcome State Fault Refusal :=
  completeFixed w sc s narrowChecked (fun a _ => a + (pow10 sc : Nat))

/-- R161, the wrapping form. -/
def execFdecW (w : Width) (sc : Nat) (s : State) : Host.Outcome State Fault Refusal :=
  completeFixed w sc s narrowWrapping (fun a _ => a - (pow10 sc : Nat))

/-- R162, the checked form. -/
def execFdecC (w : Width) (sc : Nat) (s : State) : Host.Outcome State Fault Refusal :=
  completeFixed w sc s narrowChecked (fun a _ => a - (pow10 sc : Nat))

end Sys2Proof.Machine
end

