-- ==== Sys2Proof/Machine/Bridge.lean ====
section
/-! DEFINITION. The interchange decimal bridge (43_interchange_bridge.md R130 to R139). -/

namespace Sys2Proof.Machine

/-- `FromDecExact` of R135 for a decoded decimal: the signed integer at scale `sc`, not yet narrowed. Scaling down rounds to
even, whatever the host might wish (R127). -/
def fromDecimalExact (x : Decimal) (sc : Nat) : Int :=
  if x.scale ≤ sc then signed x.neg (x.magnitude * pow10 (sc - x.scale))
  else roundedQuotient x.magnitude (pow10 (x.scale - sc)) x.neg .rne

/-- Decode the operand (R131), or raise InvalidOperand (R135, R217). -/
def checkDecimal (opa : Wide) (k : Decimal → Response) : Response :=
  match decodeDec opa with
  | some x => k x
  | none => raise .invalidOperand

/-- R134: the decimal carries the type's own scale; nothing is rounded. -/
def execTodec (w : Width) (sc : Nat) (s : State) : Host.Outcome State Fault Refusal :=
  completeWith s fun opa _ =>
    let v := w.sint opa
    checkScale w sc (respond (encodeDec ⟨decide (v < 0), sc, v.natAbs⟩) 0)

/-- R136: every path wraps. -/
def execFromdecW (w : Width) (sc : Nat) (s : State) : Host.Outcome State Fault Refusal :=
  completeWith s fun opa _ =>
    checkScale w sc (checkDecimal opa fun x => narrowWrapping w (fromDecimalExact x sc))

/-- R137, R138: the range is checked after scaling and rounding. -/
def execFromdecC (w : Width) (sc : Nat) (s : State) : Host.Outcome State Fault Refusal :=
  completeWith s fun opa _ =>
    checkScale w sc (checkDecimal opa fun x => narrowChecked w (fromDecimalExact x sc))

end Sys2Proof.Machine
end

