-- ==== Sys2Proof/Machine/Flags.lean ====
section
/-! DEFINITION. The truth values that commands return. The unit has no flags (10_state.md R28): the outcome of a comparison
or of a classification is a value on `res`. -/

namespace Sys2Proof

/-- `zext_128({GT, LT, EQ})` (40_wide_alu.md R83, 48_fixed_compare_classify.md R200). -/
def compareBits (eq lt gt : Bool) : Wide :=
  (BitVec.ofBool gt ++ BitVec.ofBool lt ++ BitVec.ofBool eq).setWidth 128

/-- The result of FCLASS for a raw value `a` at scale `sc` (R201). -/
def classBits (a : Int) (sc : Nat) : Wide :=
  let isZero := decide (a = 0)
  let isNegative := decide (a < 0)
  let isPositive := decide (0 ≤ a)
  let isInteger := decide (a.natAbs % 10 ^ sc = 0)
  let k := a.natAbs / 10 ^ sc
  let isEvenInt := isInteger && decide (k % 2 = 0)
  let isOddInt := isInteger && decide (k % 2 = 1)
  (BitVec.ofBool isOddInt ++ BitVec.ofBool isEvenInt ++ BitVec.ofBool isInteger ++ BitVec.ofBool isPositive
    ++ BitVec.ofBool isNegative ++ BitVec.ofBool isZero).setWidth 128

end Sys2Proof
end

