-- ==== Sys2Proof/Machine/Compare.lean ====
section
/-! DEFINITION. Fixed-point compare and classify (48_fixed_compare_classify.md R200 to R202). -/

namespace Sys2Proof.Machine

/-- R200: the signed comparison of the raw values; the scale is checked and does not enter it. -/
def execFcmp (w : Width) (sc : Nat) (s : State) : Host.Outcome State Fault Refusal :=
  completeWith s fun opa opb =>
    let a := w.sint opa
    let b := w.sint opb
    checkScale w sc (respond (compareBits (decide (a = b)) (decide (a < b)) (decide (a > b))) 0)

/-- R201: six truth values of one raw value. -/
def execFclass (w : Width) (sc : Nat) (s : State) : Host.Outcome State Fault Refusal :=
  completeWith s fun opa _ => checkScale w sc (respond (classBits (w.sint opa) sc) 0)

end Sys2Proof.Machine
end

