-- ==== Sys2Proof/Machine/Divide.lean ====
section
/-! DEFINITION. Fixed-point divide with rounding (46_fixed_divide.md R180 to R183), on unbounded integers; which tier of the
hardware computes it cannot be observed (R183). -/

namespace Sys2Proof.Machine

/-- `FDivExact` of R180: the rounded signed quotient before narrowing, for a divisor that is not zero. -/
def divExact (a b : Int) (sc : Nat) (m : RoundingMode) : Int :=
  roundedQuotient (a.natAbs * pow10 sc) b.natAbs (xor (decide (a < 0)) (decide (b < 0))) m

/-- R181: a zero divisor faults, whatever the dividend; never Overflow. -/
def execFdivW (w : Width) (rm sc : Nat) (s : State) : Host.Outcome State Fault Refusal :=
  completeWith s fun opa opb =>
    checkScale w sc (checkMode rm fun m =>
      checkDivisor (decide (w.sint opb = 0)) (narrowWrapping w (divExact (w.sint opa) (w.sint opb) sc m)))

/-- R182: the range is checked on the rounded signed result. -/
def execFdivC (w : Width) (rm sc : Nat) (s : State) : Host.Outcome State Fault Refusal :=
  completeWith s fun opa opb =>
    checkScale w sc (checkMode rm fun m =>
      checkDivisor (decide (w.sint opb = 0)) (narrowChecked w (divExact (w.sint opa) (w.sint opb) sc m)))

end Sys2Proof.Machine
end

