-- ==== Sys2Proof/Machine/Divider.lean ====
section
/-! DEFINITION. The power-of-ten divider (41_magic_divider.md R100 to R108), built as R103 to R106 describe it over
the table that State holds. With the table of R102 its quotient and remainder are those of plain division (R100). -/

namespace Sys2Proof.Machine

/-- The high 128 bits of the 256-bit product of two 128-bit numbers, from the four partial products (R104). -/
def mulHigh (t magic : Nat) : Nat :=
  let tH := t / 2 ^ 64
  let tL := t % 2 ^ 64
  let mH := magic / 2 ^ 64
  let mL := magic % 2 ^ 64
  let ll := tL * mL
  let lh := tL * mH
  let hl := tH * mL
  let hh := tH * mH
  let mid := ll / 2 ^ 64 + lh % 2 ^ 64 + hl % 2 ^ 64
  hh + lh / 2 ^ 64 + hl / 2 ^ 64 + mid / 2 ^ 64

/-- The quotient of R103 for one entry: shift, widening multiply, shift. -/
def reciprocalQuotient (e : RomEntry) (n : Wide) : Wide :=
  let t := n.toNat / 2 ^ e.preShift.toNat
  let acc := mulHigh t e.magic.toNat
  BitVec.ofNat 128 (acc / 2 ^ e.postShift.toNat)

/-- Quotient and remainder by `10^d` (R103); `d = 0` takes no reciprocal (R106). -/
def divideByPower (rom : Rom) (d : Fin 39) (n : Wide) : Wide × Wide :=
  if d = 0 then (n, 0)
  else
    let e := rom.get d
    let q := reciprocalQuotient e n
    (q, n - q * e.divisor)

/-- R100, R101: a digit count above 38 faults before the table is read. -/
def execDivpow10 (sc : Nat) (s : State) : Host.Outcome State Fault Refusal :=
  completeWith s fun opa _ =>
    if h : maxDigits < sc then raise .invalidScale
    else
      let qr := divideByPower s.rom ⟨sc, Nat.lt_of_not_le h⟩ opa
      respond qr.1 qr.2

end Sys2Proof.Machine
end

