-- ==== Sys2Proof/Machine/Multiply.lean ====
section
/-! DEFINITION. Fixed-point multiply with rounding (45_fixed_multiply.md R170 to R173), on unbounded integers; which tier
of the hardware computes it cannot be observed (R173). -/

namespace Sys2Proof.Machine

/-- `FMulExact` of R170: the rounded signed product before narrowing. -/
def mulExact (a b : Int) (sc : Nat) (m : RoundingMode) : Int :=
  roundedQuotient (a.natAbs * b.natAbs) (pow10 sc) (xor (decide (a < 0)) (decide (b < 0))) m

/-- R171: never Overflow. -/
def execFmulW (w : Width) (rm sc : Nat) (s : State) : Host.Outcome State Fault Refusal :=
  completeWith s fun opa opb =>
    checkScale w sc (checkMode rm fun m => narrowWrapping w (mulExact (w.sint opa) (w.sint opb) sc m))

/-- R172: the range is checked on the rounded signed result. -/
def execFmulC (w : Width) (rm sc : Nat) (s : State) : Host.Outcome State Fault Refusal :=
  completeWith s fun opa opb =>
    checkScale w sc (checkMode rm fun m => narrowChecked w (mulExact (w.sint opa) (w.sint opb) sc m))

end Sys2Proof.Machine
end

