-- ==== Sys2Proof/Machine/Rescale.lean ====
section
/-! DEFINITION. The scale rescaler (47_scale_rescaler.md R190 to R194). Only the checked form exists (R191). -/

namespace Sys2Proof.Machine

/-- The signed result of R190 before the range check: exact when the target has at least as many digits, else rounded by the
caller's mode. -/
def rescaleExact (v : Int) (sc tc : Nat) (m : RoundingMode) : Int :=
  if sc ≤ tc then v * (pow10 (tc - sc) : Nat)
  else roundedQuotient v.natAbs (pow10 (sc - tc)) (decide (v < 0)) m

/-- R190: both scales, then the mode, then the range of the result. -/
def execRescaleC (w : Width) (rm sc tc : Nat) (s : State) : Host.Outcome State Fault Refusal :=
  completeWith s fun opa _ =>
    checkScale w sc (checkScale w tc (checkMode rm fun m => narrowChecked w (rescaleExact (w.sint opa) sc tc m)))

end Sys2Proof.Machine
end

