-- ==== Sys2Proof/Machine/WideAlu.lean ====
section
/-! DEFINITION. The wide unsigned integer commands (40_wide_alu.md R80 to R89). -/

namespace Sys2Proof.Machine

/-- R81: the sum modulo `2^128`; the carry out of bit 127 is discarded. -/
def execAdd128 (s : State) : Host.Outcome State Fault Refusal :=
  completeWith s fun opa opb => respond (opa + opb) 0

/-- R82: the difference modulo `2^128`; the borrow out of bit 127 is discarded. -/
def execSub128 (s : State) : Host.Outcome State Fault Refusal :=
  completeWith s fun opa opb => respond (opa - opb) 0

/-- R83: the unsigned comparison of the full values. -/
def execCmp128 (s : State) : Host.Outcome State Fault Refusal :=
  completeWith s fun opa opb =>
    respond (compareBits (opa == opb) (decide (opa.toNat < opb.toNat)) (decide (opa.toNat > opb.toNat))) 0

/-- R84: logical left shift. -/
def execShl128 (sh : Nat) (s : State) : Host.Outcome State Fault Refusal :=
  completeWith s fun opa _ => respond (opa <<< sh) 0

/-- R85: logical right shift. -/
def execShr128 (sh : Nat) (s : State) : Host.Outcome State Fault Refusal :=
  completeWith s fun opa _ => respond (opa >>> sh) 0

/-- R86: the low 128 bits of the product. -/
def execMul128 (s : State) : Host.Outcome State Fault Refusal :=
  completeWith s fun opa opb => respond (opa * opb) 0

/-- R87: the low 128 bits of the product with the low half of `opb`. -/
def execMul128x64 (s : State) : Host.Outcome State Fault Refusal :=
  completeWith s fun opa opb => respond (opa * (operandU64 opb).setWidth 128) 0

/-- R88: quotient and remainder by the low half of `opb`. -/
def execDiv128by64 (s : State) : Host.Outcome State Fault Refusal :=
  completeWith s fun opa opb =>
    let d := operandU64 opb
    checkDivisor (d == 0) (respond (opa / d.setWidth 128) (opa % d.setWidth 128))

end Sys2Proof.Machine
end

