-- ==== Sys2Proof/Machine/Dispatch.lean ====
section
/-! DEFINITION. One arm per command: the meaning of its rule in spec/opcode_table.json. -/

namespace Sys2Proof.Machine

def exec (i : Instr) (s : State) : Host.Outcome State Fault Refusal :=
  match i with
  | .add128 => Sys2Proof.Machine.execAdd128 s
  | .sub128 => Sys2Proof.Machine.execSub128 s
  | .cmp128 => Sys2Proof.Machine.execCmp128 s
  | .shl128 sh => Sys2Proof.Machine.execShl128 sh s
  | .shr128 sh => Sys2Proof.Machine.execShr128 sh s
  | .mul128 => Sys2Proof.Machine.execMul128 s
  | .mul128x64 => Sys2Proof.Machine.execMul128x64 s
  | .div128by64 => Sys2Proof.Machine.execDiv128by64 s
  | .divpow10 sc => Sys2Proof.Machine.execDivpow10 sc s
  | .fmulW w rm sc => Sys2Proof.Machine.execFmulW w rm sc s
  | .fmulC w rm sc => Sys2Proof.Machine.execFmulC w rm sc s
  | .fdivW w rm sc => Sys2Proof.Machine.execFdivW w rm sc s
  | .fdivC w rm sc => Sys2Proof.Machine.execFdivC w rm sc s
  | .rescaleC w rm sc tc => Sys2Proof.Machine.execRescaleC w rm sc tc s
  | .fromdecW w sc => Sys2Proof.Machine.execFromdecW w sc s
  | .fromdecC w sc => Sys2Proof.Machine.execFromdecC w sc s
  | .todec w sc => Sys2Proof.Machine.execTodec w sc s
  | .faddW w sc => Sys2Proof.Machine.execFaddW w sc s
  | .faddC w sc => Sys2Proof.Machine.execFaddC w sc s
  | .fsubW w sc => Sys2Proof.Machine.execFsubW w sc s
  | .fsubC w sc => Sys2Proof.Machine.execFsubC w sc s
  | .fnegW w sc => Sys2Proof.Machine.execFnegW w sc s
  | .fnegC w sc => Sys2Proof.Machine.execFnegC w sc s
  | .fabsW w sc => Sys2Proof.Machine.execFabsW w sc s
  | .fabsC w sc => Sys2Proof.Machine.execFabsC w sc s
  | .fincW w sc => Sys2Proof.Machine.execFincW w sc s
  | .fincC w sc => Sys2Proof.Machine.execFincC w sc s
  | .fdecW w sc => Sys2Proof.Machine.execFdecW w sc s
  | .fdecC w sc => Sys2Proof.Machine.execFdecC w sc s
  | .fcmp w sc => Sys2Proof.Machine.execFcmp w sc s
  | .fclass w sc => Sys2Proof.Machine.execFclass w sc s

end Sys2Proof.Machine
end

