-- ==== Sys2Proof/Machine/Step.lean ====
section
/-! DEFINITION. One step of the machine: the next event of the schedule, and `complete` where it is due (10_state.md R24).
The unit fetches nothing (R27): the word it runs is the one latched at issue. -/

namespace Sys2Proof.Machine

/-- One step. A command in flight that completes in this step is decoded and run; a word that is no command completes
with IllegalCommand (30_encoding.md R59, R60). -/
def step (s : State) : Host.Outcome State Fault Refusal :=
  match turn s with
  | (t, none) => .next t
  | (t, some c) =>
    match Sys2Proof.decode c.word with
    | .ok i => exec i t
    | .error _ => completeIllegal t

/-- `s` with the word `w` in flight, so that the next step completes it. A unit that is already BUSY keeps its operands; an
idle one takes zeros. A reset or a hold that stands first in the schedule is put off by one step. It stands for an
issue by the host (log 1, log 2). -/
def State.withFetchWord (s : State) (nbits w : Nat) : State :=
  { s with
    phase :=
      match s.phase with
      | .busy c => .busy { c with word := BitVec.ofNat 32 (w % 2 ^ nbits) }
      | .idle => .busy ⟨BitVec.ofNat 32 (w % 2 ^ nbits), 0, 0⟩
    schedule :=
      match s.schedule with
      | .reset :: rest => .wait :: .reset :: rest
      | .hold :: rest => .wait :: .hold :: rest
      | other => other }

end Sys2Proof.Machine
end

