-- ==== Sys2Proof/Config.lean ====
section
/-! DEFINITION. What an implementation fixes. The spec leaves two parameters open (00_scope.md R5): the
signal-level protocol of the ports, out of scope by R4, and the response latency `LAT`. -/

namespace Sys2Proof

/-- How many time units a command takes beyond the first: no value is stated, so none can be proved of it. -/
opaque Config.extraLatency : Word → Wide → Wide → Nat

/-- `LAT(cmd, opa, opb)` of R243: finite, positive, possibly data dependent. No step reads it. -/
def Config.lat (cmd : Word) (opa opb : Wide) : Nat := Config.extraLatency cmd opa opb + 1

end Sys2Proof
end

