-- ==== Sys2Proof/Safety.lean ====
section
/-! DEFINITION. What a sound state is, and what the unit answers to a command, in the terms the statements use. -/

namespace Sys2Proof.Machine

/-- A state a unit can be in: its table is that of 41_magic_divider.md R102, and no response is pending while a command is in
flight (10_state.md R24: the response is emitted by `complete`, which leads to IDLE; log 3). -/
abbrev State.Sound (s : State) : Prop := s.rom = romTable ∧ (s.phase ≠ .idle → s.response = none)

/-- The next step of `s` completes the command in flight: a command is latched, and the host makes no move, or wants to
issue and must wait (R24, R43). -/
abbrev State.Completing (s : State) (c : Command) : Prop :=
  s.phase = .busy c ∧ (s.schedule = [] ∨ s.schedule.head? = some .wait ∨ ∃ d, s.schedule.head? = some (.issue d))

/-- What is left of the schedule after the unit completes: a `wait` is used up, an issue stays first. -/
def State.scheduleAfter (s : State) : List Event :=
  match s.schedule with
  | .wait :: rest => rest
  | other => other

/-- The unit's answer to a command, with the table `rom` and nothing else given (R20). -/
def answerTo (rom : Rom) (c : Command) : Option Response :=
  match step { phase := .busy c, response := none, rom := rom, schedule := [] } with
  | .next t => t.response
  | .fault _ => none
  | .refused _ => none

/-- The faults a command can report, besides IllegalCommand, which belongs to words (60_exceptions.md R219). -/
def reportable : Instr → List CommandFault
  | .add128 => []
  | .sub128 => []
  | .cmp128 => []
  | .shl128 _ => []
  | .shr128 _ => []
  | .mul128 => []
  | .mul128x64 => []
  | .div128by64 => [.divideByZero]
  | .divpow10 _ => [.invalidScale]
  | .fmulW _ _ _ => [.invalidScale, .invalidRoundingMode]
  | .fmulC _ _ _ => [.invalidScale, .invalidRoundingMode, .overflow]
  | .fdivW _ _ _ => [.invalidScale, .invalidRoundingMode, .divideByZero]
  | .fdivC _ _ _ => [.invalidScale, .invalidRoundingMode, .divideByZero, .overflow]
  | .rescaleC _ _ _ _ => [.invalidScale, .invalidRoundingMode, .overflow]
  | .fromdecW _ _ => [.invalidScale, .invalidOperand]
  | .fromdecC _ _ => [.invalidScale, .invalidOperand, .overflow]
  | .todec _ _ => [.invalidScale]
  | .faddW _ _ => [.invalidScale]
  | .faddC _ _ => [.invalidScale, .overflow]
  | .fsubW _ _ => [.invalidScale]
  | .fsubC _ _ => [.invalidScale, .overflow]
  | .fnegW _ _ => [.invalidScale]
  | .fnegC _ _ => [.invalidScale, .overflow]
  | .fabsW _ _ => [.invalidScale]
  | .fabsC _ _ => [.invalidScale, .overflow]
  | .fincW _ _ => [.invalidScale]
  | .fincC _ _ => [.invalidScale, .overflow]
  | .fdecW _ _ => [.invalidScale]
  | .fdecC _ _ => [.invalidScale, .overflow]
  | .fcmp _ _ => [.invalidScale]
  | .fclass _ _ => [.invalidScale]

end Sys2Proof.Machine
end

