-- ==== Sys2Proof/Certificates/Slice0/Obligations.lean ====
section
/-! DEFINITION. The statements for the provers. `s.completed r` is `s` with the phase IDLE and the response `r`, everything else
unchanged; so an equation `exec i s = .next (s.completed r)` says what the command answers and that it changes nothing
else. `w.sint x`, `w.wrap v` and `w.fits v` are pinned to 00_scope.md R7 by the statement FixedPointPrimitives. -/

open Sys2Proof Sys2Proof.Machine

/-! ### Encoding -/

/-- R51, R57, R58, R59: the word of every well-formed command decodes to that command, with every field at every value its place in the word
admits. -/
def Obligations.DecodeOfEncodeIsIdentity : Prop :=
  ∀ i : Instr, i.WellFormed → decode (encode i) = .ok i

/-- R51, R57, R59: a word that decodes to a command is that command's one encoding, so no bit of a legal word is ignored. -/
def Obligations.EncodeOfDecodeIsIdentity : Prop :=
  ∀ (c : Word) (i : Instr), decode c = .ok i → i.WellFormed ∧ encode i = c

/-- R57: the six masks, and: a word is the command of a row exactly when the row's mask leaves the row's opcode number. A command's
opcode and format are stated with its meaning below. -/
def Obligations.WordIsOfRowExactlyByMaskAndMatch : Prop :=
  Format.A.mask = 0xFFFFFFFF#32 ∧ Format.S.mask = 0x80FFFFFF#32 ∧ Format.P.mask = 0xFFFC0FFF#32 ∧
  Format.F.mask = 0xFFFC00FF#32 ∧ Format.R.mask = 0xFF0000FF#32 ∧ Format.X.mask = 0xFFFC0EFF#32 ∧
  ∀ (c : Word) (row : Instr),
    c &&& row.format.mask = row.opcode.setWidth 32 ↔ ∃ i, decode c = .ok i ∧ i.opcode = row.opcode ∧ i.format = row.format

/-- R60, R216: the words that decode to no command are exactly those with bit 31 set, with an opcode of no command, or with a nonzero bit in a
field the format does not use; so are the all-zero and the all-ones word and opcode 24; and such a word is answered with
IllegalCommand whatever the operands and the table. -/
def Obligations.IllegalWordsAreExactlyThese : Prop :=
  (∀ c : Word, (∃ e, decode c = .error e) ↔
    (bits c 31 31 = 1 ∨ (∀ i : Instr, i.opcode.toNat ≠ bits c 7 0) ∨
      ∃ i : Instr, i.opcode.toNat = bits c 7 0 ∧ i.format.unusedZero (fieldsOf c) = false)) ∧
  (∃ e, decode 0x00000000#32 = .error e) ∧ (∃ e, decode 0xFFFFFFFF#32 = .error e) ∧ (∃ e, decode 0x00000024#32 = .error e) ∧
  ∀ (c : Word) (opa opb : Wide) (rom : Rom), (∃ e, decode c = .error e) →
    answerTo rom ⟨c, opa, opb⟩ = some (.fault .illegalCommand)

/-- R65: the fifteen worked encodings of the spec decode to what they stand for. -/
def Obligations.WorkedEncodingsDecode : Prop :=
  decode 0x00000001#32 = .ok .add128 ∧
  decode 0x7F000004#32 = .ok (.shl128 127) ∧
  decode 0x40000005#32 = .ok (.shr128 64) ∧
  decode 0x00026010#32 = .ok (.divpow10 38) ∧
  decode 0x00004121#32 = .ok (.fmulC .w64 0 4) ∧
  decode 0x00004321#32 = .ok (.fmulC .w64 1 4) ∧
  decode 0x00009820#32 = .ok (.fmulW .w32 4 9) ∧
  decode 0x00004123#32 = .ok (.fdivC .w64 0 4) ∧
  decode 0x00107125#32 = .ok (.rescaleC .w64 0 7 4) ∧
  decode 0x00004131#32 = .ok (.fromdecC .w64 4) ∧
  decode 0x00004132#32 = .ok (.todec .w64 4) ∧
  decode 0x00004041#32 = .ok (.faddC .w32 4) ∧
  decode 0x0000214E#32 = .ok (.fclass .w64 2) ∧
  decode 0x00004B21#32 = .ok (.fmulC .w64 5 4) ∧
  decode 0x0000A021#32 = .ok (.fmulC .w32 0 10)

/-! ### The step, reset and order -/

/-- R24, R59: when the command in flight completes and its word decodes to `i`, the step is `exec i`; a `wait` of the schedule is used up, an
issue stays (the schedule is the model's own, log 1). -/
def Obligations.StepRunsDecodedCommand : Prop :=
  ∀ (s : State) (c : Command) (i : Instr), s.Completing c → decode c.word = .ok i →
    step s = exec i { s with schedule := s.scheduleAfter }

/-- R210, R216: when the word in flight is no command, the step completes it with IllegalCommand, whatever the operands, and changes nothing
else but the model's own schedule (log 1). -/
def Obligations.StepAnswersIllegalCommand : Prop :=
  ∀ (s : State) (c : Command) (e : DecodeError), s.Completing c → decode c.word = .error e →
    step s = .next (State.completed { s with schedule := s.scheduleAfter } (.fault .illegalCommand))

/-- R24, R43: an idle unit takes an issue: the word and operands are latched. That no response is pending from then on is the model's choice
(log 3). -/
def Obligations.IssueLatchesWordAndOperands : Prop :=
  ∀ (s : State) (c : Command) (rest : List Event), s.phase = .idle → s.schedule = .issue c :: rest →
    step s = .next { s with phase := .busy c, response := none, schedule := rest }

/-- R24: while a command is in flight the host may not issue, so the next step completes the command in flight. That a wish to issue may
stand in the state meanwhile, and stays where it stood, is the MODEL'S CHOICE (DESIGN CHOICE, log 5; U11 leaves such a
host outside a model). -/
def Obligations.IssueWaitsWhileBusy : Prop :=
  ∀ (s : State) (c d : Command) (rest : List Event), s.phase = .busy c → s.schedule = .issue d :: rest →
    ∃ r, answerTo s.rom c = some r ∧ step s = .next (s.completed r)

/-- R240 item 4: with no command the unit starts nothing; it waits. That a step of waiting, a `wait` or a `hold` of the schedule, leaves the
state alone is the MODEL'S CHOICE (DESIGN CHOICE, log 12), and so is that an earlier response stays in it (log 3: R25 leaves
that open). -/
def Obligations.IdleUnitWaits : Prop :=
  ∀ s : State, s.phase = .idle →
    (s.schedule = [] → step s = .next s) ∧
    (∀ rest, s.schedule = .wait :: rest ∨ s.schedule = .hold :: rest → step s = .next { s with schedule := rest })

/-- R33, R240: what reset leaves, at power-on and whenever the reset input is applied: the phase is IDLE, a command in flight is dropped
without a response, no response is pending, and the table is unchanged and is that of R102. That the reset input comes as an event of
the schedule is the model's own form (log 1). -/
def Obligations.ResetLeavesIdleAndTable : Prop :=
  State.reset.phase = .idle ∧ State.reset.response = none ∧ State.reset.rom = romTable ∧
  ∀ (s : State) (rest : List Event), s.schedule = .reset :: rest →
    step s = .next { s with phase := .idle, response := none, schedule := rest }

/-- R21, R210, R244: no state and no word stops the machine: every step has a next state, and the table in it is the one before
the step: nothing writes it. -/
def Obligations.EveryStepGoesOnAndKeepsTheTable : Prop :=
  ∀ s : State, ∃ t, step s = .next t ∧ t.rom = s.rom

/-- R24, R107: every step from a sound state, reached or not, leads to a sound state. That no response is pending while a command is in
flight is the model's choice (log 3). -/
def Obligations.StepKeepsSoundness : Prop :=
  ∀ s t : State, s.Sound → step s = .next t → t.Sound

/-- R33: the state after reset is sound. -/
def Obligations.ResetIsSound : Prop := State.reset.Sound

/-- R20: the response is a function of the command's word and operands and of the table alone: two states that share these answer alike,
whatever else differs, and the rest of each state is left alone, but for the model's own schedule (log 1). -/
def Obligations.ResponseDependsOnCommandAndTableOnly : Prop :=
  ∀ (s s' : State) (c : Command), s.Completing c → s'.Completing c → s.rom = s'.rom →
    ∃ r, answerTo s.rom c = some r ∧
      step s = .next (State.completed { s with schedule := s.scheduleAfter } r) ∧
      step s' = .next (State.completed { s' with schedule := s'.scheduleAfter } r)

/-- R24, R46: commands the host issues one after another complete in that order, two steps each, and the k-th response is the answer to the
k-th command alone. That the host's issues stand in the state as the schedule is the model's own form (log 1), and that the next of
them stays there while the unit is BUSY is its choice (log 5). -/
def Obligations.CommandsCompleteInIssueOrder : Prop :=
  ∀ (s : State) (cs : List Command), s.phase = .idle → s.schedule = cs.map .issue →
    ∀ (k : Nat) (h : k < cs.length), ∃ r,
      answerTo s.rom cs[k] = some r ∧
      Host.Core.run Sys2Proof.core (2 * (k + 1)) s =
        .next { phase := .idle, response := some r, rom := s.rom, schedule := (cs.drop (k + 1)).map .issue }

/-- R243, R244: whatever finite latency a command in flight has, it completes, with the answer it has at any other latency. That latency
is a number `n` of `hold` events of the schedule, so `Config.lat` of them less one among others, is the MODEL'S CHOICE (DESIGN CHOICE,
log 8). While they last nothing but the schedule changes; then, whatever stands next that is no further `hold` and no reset (nothing, a
`wait`, or an issue that stays, log 5), the command completes. -/
def Obligations.CommandCompletesAfterAnyLatency : Prop :=
  ∀ (s : State) (c : Command) (n : Nat) (rest : List Event), s.phase = .busy c →
    s.schedule = List.replicate n .hold ++ rest → rest.head? ≠ some .hold → rest.head? ≠ some .reset →
    (∀ k ≤ n, Host.Core.run Sys2Proof.core k s = .next { s with schedule := List.replicate (n - k) .hold ++ rest }) ∧
    ∃ r, answerTo s.rom c = some r ∧
      ∀ left, left = (if rest.head? = some .wait then rest.tail else rest) →
        Host.Core.run Sys2Proof.core (n + 1) s = .next (State.completed { s with schedule := left } r) ∧
        (n + 1 = Config.lat c.word c.opa c.opb →
          Host.Core.run Sys2Proof.core (Config.lat c.word c.opa c.opb) s =
            .next (State.completed { s with schedule := left } r))

/-! ### Wide integers -/

/-- R81: ADD128, on the whole value and on the two halves with the carry between them. -/
def Obligations.Add128CarriesAcrossHalves : Prop :=
  Instr.add128.opcode = 0x01#8 ∧ Instr.add128.format = .A ∧
  ∀ (s : State) (c : Command), s.phase = .busy c →
    ∃ res : Wide, exec .add128 s = .next (s.completed (.ok res 0)) ∧
      res.toNat = (c.opa.toNat + c.opb.toNat) % 2 ^ 128 ∧
      bits res 63 0 = (bits c.opa 63 0 + bits c.opb 63 0) % 2 ^ 64 ∧
      bits res 127 64 =
        (bits c.opa 127 64 + bits c.opb 127 64 + (bits c.opa 63 0 + bits c.opb 63 0) / 2 ^ 64) % 2 ^ 64

/-- R82: SUB128, on the whole value and on the two halves with the borrow between them. -/
def Obligations.Sub128BorrowsAcrossHalves : Prop :=
  Instr.sub128.opcode = 0x02#8 ∧ Instr.sub128.format = .A ∧
  ∀ (s : State) (c : Command), s.phase = .busy c →
    ∃ res : Wide, exec .sub128 s = .next (s.completed (.ok res 0)) ∧
      (res.toNat : Int) = ((c.opa.toNat : Int) - c.opb.toNat) % 2 ^ 128 ∧
      (bits res 63 0 : Int) = ((bits c.opa 63 0 : Int) - bits c.opb 63 0) % 2 ^ 64 ∧
      (bits res 127 64 : Int) =
        ((bits c.opa 127 64 : Int) - bits c.opb 127 64 - if bits c.opa 63 0 < bits c.opb 63 0 then 1 else 0) % 2 ^ 64

/-- R83: CMP128 compares the unsigned values; exactly one of the bits EQ, LT, GT is 1. The upper halves decide unless they are equal, then
the lower halves. -/
def Obligations.Cmp128ReportsUnsignedOrder : Prop :=
  Instr.cmp128.opcode = 0x03#8 ∧ Instr.cmp128.format = .A ∧
  ∀ (s : State) (c : Command), s.phase = .busy c →
    ∃ res : Wide, exec .cmp128 s = .next (s.completed (.ok res 0)) ∧
      (res = 1 ↔ c.opa = c.opb) ∧ (res = 2 ↔ c.opa.toNat < c.opb.toNat) ∧ (res = 4 ↔ c.opb.toNat < c.opa.toNat) ∧
      (res = 1 ∨ res = 2 ∨ res = 4) ∧
      (res = 2 ↔ bits c.opa 127 64 < bits c.opb 127 64 ∨
        bits c.opa 127 64 = bits c.opb 127 64 ∧ bits c.opa 63 0 < bits c.opb 63 0)

/-- R84, R85: SHL128 and SHR128 with every shift amount that can be written: multiply by `2^sh` modulo `2^128`, divide by `2^sh`. -/
def Obligations.ShiftsMultiplyAndDivideByPowersOfTwo : Prop :=
  ∀ sh : Nat, sh < 128 →
    (Instr.shl128 sh).opcode = 0x04#8 ∧ (Instr.shl128 sh).format = .S ∧
    (Instr.shr128 sh).opcode = 0x05#8 ∧ (Instr.shr128 sh).format = .S ∧
    ∀ (s : State) (c : Command), s.phase = .busy c →
      (∃ res : Wide, exec (.shl128 sh) s = .next (s.completed (.ok res 0)) ∧
        res.toNat = (c.opa.toNat * 2 ^ sh) % 2 ^ 128) ∧
      (∃ res : Wide, exec (.shr128 sh) s = .next (s.completed (.ok res 0)) ∧ res.toNat = c.opa.toNat / 2 ^ sh)

/-- R86, R87: MUL128 and MUL128X64 keep the low 128 bits of the product; the second takes the low half of `opb`, and is the full product
exactly when that is below `2^128`. -/
def Obligations.MultipliesKeepLowHalfOfProduct : Prop :=
  Instr.mul128.opcode = 0x06#8 ∧ Instr.mul128.format = .A ∧
  Instr.mul128x64.opcode = 0x07#8 ∧ Instr.mul128x64.format = .A ∧
  ∀ (s : State) (c : Command), s.phase = .busy c →
    (∃ res : Wide, exec .mul128 s = .next (s.completed (.ok res 0)) ∧
      res.toNat = (c.opa.toNat * c.opb.toNat) % 2 ^ 128) ∧
    (∃ res : Wide, exec .mul128x64 s = .next (s.completed (.ok res 0)) ∧
      res.toNat = (c.opa.toNat * bits c.opb 63 0) % 2 ^ 128 ∧
      (res.toNat = c.opa.toNat * bits c.opb 63 0 ↔ c.opa.toNat * bits c.opb 63 0 < 2 ^ 128))

/-- R88: DIV128BY64 gives the floor quotient and the remainder by the low half of `opb`; a zero low half faults, whatever the dividend. -/
def Obligations.Div128by64DividesExactly : Prop :=
  Instr.div128by64.opcode = 0x08#8 ∧ Instr.div128by64.format = .A ∧
  ∀ (s : State) (c : Command), s.phase = .busy c →
    (bits c.opb 63 0 ≠ 0 → ∃ q r : Wide, exec .div128by64 s = .next (s.completed (.ok q r)) ∧
      q.toNat = c.opa.toNat / bits c.opb 63 0 ∧ r.toNat = c.opa.toNat % bits c.opb 63 0 ∧
      c.opa.toNat = q.toNat * bits c.opb 63 0 + r.toNat ∧ r.toNat < bits c.opb 63 0) ∧
    (bits c.opb 63 0 = 0 → exec .div128by64 s = .next (s.completed (.fault .divideByZero)))

/-! ### The power-of-ten divider -/

/-- R100, R101: DIVPOW10, which the model builds on the reciprocal table as R103 to R106 describe, answers the exact quotient and remainder
for every 128-bit dividend and every digit count 0 to 38, and faults above 38. The premise on the table is kept by
every step (StepKeepsSoundness). -/
def Obligations.Divpow10IsExactForEveryDividend : Prop :=
  ∀ (s : State) (c : Command) (sc : Nat), s.rom = romTable → s.phase = .busy c →
    (Instr.divpow10 sc).opcode = 0x10#8 ∧ (Instr.divpow10 sc).format = .P ∧
    (sc ≤ 38 → ∃ q r : Wide, exec (.divpow10 sc) s = .next (s.completed (.ok q r)) ∧
      q.toNat = c.opa.toNat / 10 ^ sc ∧ r.toNat = c.opa.toNat % 10 ^ sc) ∧
    (38 < sc → exec (.divpow10 sc) s = .next (s.completed (.fault .invalidScale)))

/-- R104: the four partial products with their carry are the high 128 bits of the product, and fit 128 bits. -/
def Obligations.PartialProductsGiveHighHalf : Prop :=
  ∀ t magic : Nat, t < 2 ^ 128 → magic < 2 ^ 128 →
    mulHigh t magic = t * magic / 2 ^ 128 ∧ mulHigh t magic < 2 ^ 128

/-- R102, R105: every entry holds `10^d`, and every entry but the first holds the constant and the shifts of the derivation in R105; entry 0
holds zeros there. -/
def Obligations.TableIsTheDerivedOne : Prop :=
  (romTable.get 0).divisor = 1#128 ∧ (romTable.get 0).magic = 0#128 ∧
  (romTable.get 0).preShift = 0#7 ∧ (romTable.get 0).postShift = 0#7 ∧
  ∀ d : Fin 39, 0 < d.val →
    (romTable.get d).divisor.toNat = 10 ^ d.val ∧
    (romTable.get d).preShift.toNat = d.val ∧
    2 ^ (d.val + (romTable.get d).postShift.toNat - 1) < 5 ^ d.val ∧
    5 ^ d.val < 2 ^ (d.val + (romTable.get d).postShift.toNat) ∧
    (romTable.get d).magic.toNat = 2 ^ (128 + (romTable.get d).postShift.toNat) / 5 ^ d.val + 1

/-! ### Rounding -/

/-- R54: the numbers 0 to 4 are the five modes in this order, and no other number is one. -/
def Obligations.RoundingModeNumbers : Prop :=
  RoundingMode.ofNumber 0 = some .rne ∧ RoundingMode.ofNumber 1 = some .rha ∧ RoundingMode.ofNumber 2 = some .rdn ∧
  RoundingMode.ofNumber 3 = some .rup ∧ RoundingMode.ofNumber 4 = some .rtz ∧
  ∀ n, 4 < n → RoundingMode.ofNumber n = none

/-- R121, R122, R123, R124, R125: `RoundInc` in its five modes. -/
def Obligations.RoundIncByMode : Prop :=
  ∀ (q r d : Nat) (neg : Bool),
    (roundInc q r d neg .rne = true ↔ 2 * r + q % 2 > d) ∧
    (roundInc q r d neg .rha = true ↔ 2 * r ≥ d) ∧
    (roundInc q r d neg .rdn = true ↔ r ≠ 0 ∧ neg = true) ∧
    (roundInc q r d neg .rup = true ↔ r ≠ 0 ∧ neg = false) ∧
    roundInc q r d neg .rtz = false

/-- R121, R122: the two nearest modes round to nearest; at the midpoint RNE gives an even magnitude and RHA the larger one. -/
def Obligations.NearestModesRoundToNearest : Prop :=
  ∀ (n d : Nat) (neg : Bool), 0 < d →
    (∃ Q : Nat, roundedQuotient n d neg .rne = signed neg Q ∧
      2 * ((n : Int) - Q * d).natAbs ≤ d ∧ (2 * ((n : Int) - Q * d).natAbs = d → Q % 2 = 0)) ∧
    (∃ Q : Nat, roundedQuotient n d neg .rha = signed neg Q ∧
      2 * ((n : Int) - Q * d).natAbs ≤ d ∧ (2 * ((n : Int) - Q * d).natAbs = d → n < Q * d))

/-- R123, R124, R125: on the signed value, RDN is the floor, RUP the ceiling, RTZ the truncation of the true quotient. -/
def Obligations.DirectedModesAreFloorCeilingTruncation : Prop :=
  ∀ (n d : Nat) (neg : Bool), 0 < d →
    roundedQuotient n d neg .rdn = (signed neg n).fdiv d ∧
    roundedQuotient n d neg .rup = -((-(signed neg n)).fdiv d) ∧
    roundedQuotient n d neg .rtz = (signed neg n).tdiv d

/-- R128: what follows from the modes: an exact result is never changed; RNE and RHA differ only at an even midpoint, so not at all when `d` is
odd; exactly one of RDN and RUP increments a nonzero remainder; a division by 1 never rounds. -/
def Obligations.RoundIncConsequences : Prop :=
  ∀ (q r d : Nat) (neg : Bool) (m : RoundingMode), 0 < d → r < d →
    (r = 0 → roundInc q r d neg m = false) ∧
    (roundInc q r d neg .rha = true → roundInc q r d neg .rne = true ∨ 2 * r = d ∧ q % 2 = 0) ∧
    (roundInc q r d neg .rne = true → roundInc q r d neg .rha = true) ∧
    (d % 2 = 1 → roundInc q r d neg .rne = roundInc q r d neg .rha) ∧
    (r ≠ 0 → (roundInc q r d neg .rdn ^^ roundInc q r d neg .rup) = true) ∧
    (d = 1 → roundInc q r d neg m = false)

/-! ### The fixed-point primitives -/

/-- R5, R7: the widths and the largest scales; `sint_W`, `wrap_W` and `fits_W`, as the meanings use them, are what R7 says, and
`sint_W(wrap_W(v)) = v` exactly when `fits_W(v)`. -/
def Obligations.FixedPointPrimitives : Prop :=
  Width.bits .w32 = 32 ∧ Width.bits .w64 = 64 ∧ Width.maxScale .w32 = 9 ∧ Width.maxScale .w64 = 18 ∧
  ∀ (w : Width) (x : Wide) (v : Int),
    (w.sint x =
      if x.toNat % 2 ^ w.bits < 2 ^ (w.bits - 1) then ((x.toNat % 2 ^ w.bits : Nat) : Int)
      else ((x.toNat % 2 ^ w.bits : Nat) : Int) - 2 ^ w.bits) ∧
    ((w.wrap v).toNat : Int) = v % 2 ^ w.bits ∧
    (w.fits v = true ↔ -(2 ^ (w.bits - 1)) ≤ v ∧ v ≤ 2 ^ (w.bits - 1) - 1) ∧
    (w.sint (w.wrap v) = v ↔ w.fits v = true)

/-! ### The bridge -/

/-- R130, R131: a word is malformed exactly when a reserved bit is set or its scale byte exceeds 28; else its parts are where R130 puts
them. The places of sign, scale and reserved bits are PRESUMED (log 9: the spec's own general knowledge, G1). -/
def Obligations.DecodeDecimalByLayout : Prop :=
  ∀ x : Wide,
    (decodeDec x = none ↔ bits x 126 120 ≠ 0 ∨ bits x 111 96 ≠ 0 ∨ 28 < bits x 119 112) ∧
    (∀ d, decodeDec x = some d →
      (d.neg = true ↔ 2 ^ 127 ≤ x.toNat) ∧ d.scale = x.toNat / 2 ^ 112 % 2 ^ 8 ∧ d.magnitude = x.toNat % 2 ^ 96)

/-- R130, R132: the layout of an encoded decimal, and that it decodes to what was encoded. The places of sign and scale are PRESUMED (log 9,
G1). -/
def Obligations.DecodeOfEncodeDecimal : Prop :=
  ∀ d : Decimal, d.scale ≤ 28 → d.magnitude < 2 ^ 96 →
    (encodeDec d).toNat = (if d.neg then 2 ^ 127 else 0) + d.scale * 2 ^ 112 + d.magnitude ∧
    decodeDec (encodeDec d) = some d

/-- R134: TODEC, its result written in the layout of R130 and R132, whose places of sign and scale are PRESUMED (log 9, G1). -/
def Obligations.TodecEncodesSignScaleMagnitude : Prop :=
  ∀ (w : Width) (sc : Nat), (Instr.todec w sc).opcode = 0x32#8 ∧ (Instr.todec w sc).format = .X ∧
    ∀ (s : State) (c : Command), s.phase = .busy c →
      (sc ≤ w.maxScale → ∃ res : Wide, exec (.todec w sc) s = .next (s.completed (.ok res 0)) ∧
        res.toNat = (if w.sint c.opa < 0 then 2 ^ 127 else 0) + sc * 2 ^ 112 + (w.sint c.opa).natAbs) ∧
      (w.maxScale < sc → exec (.todec w sc) s = .next (s.completed (.fault .invalidScale)))

/-- R135, R136: FROMDEC.W: the scale fault, then the fault of a malformed operand; else copy, scale up exactly, or scale down rounding to
even, then reduce modulo `2^W`. -/
def Obligations.FromdecWrappingResult : Prop :=
  ∀ (w : Width) (sc : Nat), (Instr.fromdecW w sc).opcode = 0x30#8 ∧ (Instr.fromdecW w sc).format = .X ∧
    ∀ (s : State) (c : Command), s.phase = .busy c →
      (w.maxScale < sc → exec (.fromdecW w sc) s = .next (s.completed (.fault .invalidScale))) ∧
      (sc ≤ w.maxScale → decodeDec c.opa = none → exec (.fromdecW w sc) s = .next (s.completed (.fault .invalidOperand))) ∧
      ∀ x : Decimal, sc ≤ w.maxScale → decodeDec c.opa = some x →
        ∀ (q r : Nat), q = x.magnitude / 10 ^ (x.scale - sc) → r = x.magnitude % 10 ^ (x.scale - sc) →
        ∀ Q : Nat,
          Q = (if x.scale = sc then x.magnitude
            else if x.scale < sc then x.magnitude * 10 ^ (sc - x.scale)
            else q + if roundInc q r (10 ^ (x.scale - sc)) x.neg .rne then 1 else 0) →
          ∃ res : Wide, exec (.fromdecW w sc) s = .next (s.completed (.ok res 0)) ∧
            (res.toNat : Int) = (if x.neg then -(Q : Int) else Q) % 2 ^ w.bits

/-- R137: FROMDEC.C: the same faults and the same signed value, and Overflow exactly when it does not fit after scaling and
rounding. -/
def Obligations.FromdecCheckedResult : Prop :=
  ∀ (w : Width) (sc : Nat), (Instr.fromdecC w sc).opcode = 0x31#8 ∧ (Instr.fromdecC w sc).format = .X ∧
    ∀ (s : State) (c : Command), s.phase = .busy c →
      (w.maxScale < sc → exec (.fromdecC w sc) s = .next (s.completed (.fault .invalidScale))) ∧
      (sc ≤ w.maxScale → decodeDec c.opa = none → exec (.fromdecC w sc) s = .next (s.completed (.fault .invalidOperand))) ∧
      ∀ x : Decimal, sc ≤ w.maxScale → decodeDec c.opa = some x →
        ∀ (q r : Nat), q = x.magnitude / 10 ^ (x.scale - sc) → r = x.magnitude % 10 ^ (x.scale - sc) →
        ∀ (Q : Nat) (V : Int),
          Q = (if x.scale = sc then x.magnitude
            else if x.scale < sc then x.magnitude * 10 ^ (sc - x.scale)
            else q + if roundInc q r (10 ^ (x.scale - sc)) x.neg .rne then 1 else 0) →
          V = (if x.neg then -(Q : Int) else Q) →
          (w.fits V = true → ∃ res : Wide, exec (.fromdecC w sc) s = .next (s.completed (.ok res 0)) ∧
            (res.toNat : Int) = V % 2 ^ w.bits ∧ w.sint res = V) ∧
          (w.fits V = false → exec (.fromdecC w sc) s = .next (s.completed (.fault .overflow)))

/-- R217: both forms of FROMDEC refuse a malformed decimal, once the scale is in range, and no other command raises InvalidOperand. Which
bits are reserved and which are the scale byte (R130, R131) is PRESUMED (log 9, G1). -/
def Obligations.MalformedDecimalIsInvalidOperand : Prop :=
  (∀ (w : Width) (sc : Nat) (s : State) (c : Command), s.phase = .busy c → sc ≤ w.maxScale →
    (bits c.opa 126 120 ≠ 0 ∨ bits c.opa 111 96 ≠ 0 ∨ 28 < bits c.opa 119 112) →
    exec (.fromdecW w sc) s = .next (s.completed (.fault .invalidOperand)) ∧
    exec (.fromdecC w sc) s = .next (s.completed (.fault .invalidOperand))) ∧
  ∀ (i : Instr) (s t : State), exec i s = .next t → t.response = some (.fault .invalidOperand) →
    ∃ (w : Width) (sc : Nat), i = .fromdecW w sc ∨ i = .fromdecC w sc

/-- R139: for every width, legal scale and raw value, TODEC and then either form of FROMDEC at the same scale give back exactly that
value. -/
def Obligations.DecimalRoundTripIsExact : Prop :=
  ∀ (w : Width) (sc : Nat) (s : State) (c : Command), sc ≤ w.maxScale → s.phase = .busy c →
    ∃ x : Wide, exec (.todec w sc) s = .next (s.completed (.ok x 0)) ∧
      ∀ (s' : State) (c' : Command), s'.phase = .busy c' → c'.opa = x →
        ∃ v : Wide, v.toNat = c.opa.toNat % 2 ^ w.bits ∧
          exec (.fromdecW w sc) s' = .next (s'.completed (.ok v 0)) ∧
          exec (.fromdecC w sc) s' = .next (s'.completed (.ok v 0))

/-! ### Add, subtract, negate, absolute value, increment, decrement -/

/-- R151, R153, R155, R157, R159, R161: the six wrapping forms check the scale and give their exact result modulo `2^W`. -/
def Obligations.SimpleOperatorsWrapping : Prop :=
  ∀ (w : Width) (sc : Nat) (s : State) (c : Command), s.phase = .busy c →
    ∀ row ∈ [(Instr.faddW w sc, 0x40#8, w.sint c.opa + w.sint c.opb), (.fsubW w sc, 0x42#8, w.sint c.opa - w.sint c.opb),
        (.fnegW w sc, 0x44#8, -(w.sint c.opa)), (.fabsW w sc, 0x46#8, |w.sint c.opa|),
        (.fincW w sc, 0x48#8, w.sint c.opa + 10 ^ sc), (.fdecW w sc, 0x4A#8, w.sint c.opa - 10 ^ sc)],
      row.1.opcode = row.2.1 ∧ row.1.format = .X ∧
      (w.maxScale < sc → exec row.1 s = .next (s.completed (.fault .invalidScale))) ∧
      (sc ≤ w.maxScale →
        ∃ res : Wide, exec row.1 s = .next (s.completed (.ok res 0)) ∧ (res.toNat : Int) = row.2.2 % 2 ^ w.bits)

/-- R152, R154, R156, R158, R160, R162: the six checked forms check the scale, give their exact result when it fits the signed `W`-bit range,
and Overflow exactly when it does not. -/
def Obligations.SimpleOperatorsChecked : Prop :=
  ∀ (w : Width) (sc : Nat) (s : State) (c : Command), s.phase = .busy c →
    ∀ row ∈ [(Instr.faddC w sc, 0x41#8, w.sint c.opa + w.sint c.opb), (.fsubC w sc, 0x43#8, w.sint c.opa - w.sint c.opb),
        (.fnegC w sc, 0x45#8, -(w.sint c.opa)), (.fabsC w sc, 0x47#8, |w.sint c.opa|),
        (.fincC w sc, 0x49#8, w.sint c.opa + 10 ^ sc), (.fdecC w sc, 0x4B#8, w.sint c.opa - 10 ^ sc)],
      row.1.opcode = row.2.1 ∧ row.1.format = .X ∧
      (w.maxScale < sc → exec row.1 s = .next (s.completed (.fault .invalidScale))) ∧
      (sc ≤ w.maxScale → -(2 ^ (w.bits - 1)) ≤ row.2.2 ∧ row.2.2 ≤ 2 ^ (w.bits - 1) - 1 →
        ∃ res : Wide, exec row.1 s = .next (s.completed (.ok res 0)) ∧ (res.toNat : Int) = row.2.2 % 2 ^ w.bits ∧
          w.sint res = row.2.2) ∧
      (sc ≤ w.maxScale → ¬(-(2 ^ (w.bits - 1)) ≤ row.2.2 ∧ row.2.2 ≤ 2 ^ (w.bits - 1) - 1) →
        exec row.1 s = .next (s.completed (.fault .overflow)))

/-! ### Multiply, divide, rescale -/

/-- R170, R171, R172: FMUL.W and FMUL.C: the scale fault, then the mode fault; else the product of the magnitudes, divided by `10^s`,
rounded by the mode, signed by the exclusive or of the signs; then reduced modulo `2^W`, or checked for the range. -/
def Obligations.FmulResults : Prop :=
  ∀ (w : Width) (rm sc : Nat), (Instr.fmulW w rm sc).opcode = 0x20#8 ∧ (Instr.fmulW w rm sc).format = .F ∧
    (Instr.fmulC w rm sc).opcode = 0x21#8 ∧ (Instr.fmulC w rm sc).format = .F ∧
    ∀ (s : State) (c : Command), s.phase = .busy c →
      (w.maxScale < sc → exec (.fmulW w rm sc) s = .next (s.completed (.fault .invalidScale)) ∧
        exec (.fmulC w rm sc) s = .next (s.completed (.fault .invalidScale))) ∧
      (sc ≤ w.maxScale → 4 < rm → exec (.fmulW w rm sc) s = .next (s.completed (.fault .invalidRoundingMode)) ∧
        exec (.fmulC w rm sc) s = .next (s.completed (.fault .invalidRoundingMode))) ∧
      ∀ m : RoundingMode, sc ≤ w.maxScale → RoundingMode.ofNumber rm = some m →
        ∀ (a b V : Int) (neg : Bool) (P Q : Nat), a = w.sint c.opa → b = w.sint c.opb → neg = xor (a < 0) (b < 0) →
          P = a.natAbs * b.natAbs →
          Q = P / 10 ^ sc + (if roundInc (P / 10 ^ sc) (P % 10 ^ sc) (10 ^ sc) neg m then 1 else 0) →
          V = (if neg then -(Q : Int) else Q) →
          ∃ res : Wide, (res.toNat : Int) = V % 2 ^ w.bits ∧
            exec (.fmulW w rm sc) s = .next (s.completed (.ok res 0)) ∧
            (w.fits V = true → w.sint res = V ∧ exec (.fmulC w rm sc) s = .next (s.completed (.ok res 0))) ∧
            (w.fits V = false → exec (.fmulC w rm sc) s = .next (s.completed (.fault .overflow)))

/-- R170, R171, R172: with scale and mode in range FMUL.W wraps and FMUL.C checks the value `mulExact`, and that value is the true
product `a * b / 10^s` correctly rounded: to nearest in the nearest modes, to the floor, to the ceiling, or truncated. -/
def Obligations.MultiplyIsCorrectlyRounded : Prop :=
  (∀ (s : State) (c : Command) (w : Width) (rm sc : Nat) (m : RoundingMode) (V : Int), s.phase = .busy c → sc ≤ w.maxScale →
    RoundingMode.ofNumber rm = some m → V = mulExact (w.sint c.opa) (w.sint c.opb) sc m →
    exec (.fmulW w rm sc) s = .next (s.completed (.ok (w.wrap V) 0)) ∧
    exec (.fmulC w rm sc) s = .next (s.completed (if w.fits V then .ok (w.wrap V) 0 else .fault .overflow))) ∧
  ∀ (a b : Int) (sc : Nat),
    (2 * |a * b - mulExact a b sc .rne * 10 ^ sc| ≤ 10 ^ sc ∧
      (2 * |a * b - mulExact a b sc .rne * 10 ^ sc| = 10 ^ sc → mulExact a b sc .rne % 2 = 0)) ∧
    (2 * |a * b - mulExact a b sc .rha * 10 ^ sc| ≤ 10 ^ sc ∧
      (2 * |a * b - mulExact a b sc .rha * 10 ^ sc| = 10 ^ sc → |a * b| < |mulExact a b sc .rha| * 10 ^ sc)) ∧
    mulExact a b sc .rdn = (a * b).fdiv (10 ^ sc) ∧
    mulExact a b sc .rup = -((-(a * b)).fdiv (10 ^ sc)) ∧
    mulExact a b sc .rtz = (a * b).tdiv (10 ^ sc)

/-- R180, R181, R182: FDIV.W and FDIV.C: the scale fault, the mode fault, the zero divisor's fault, in this order; else the dividend's
magnitude times `10^s`, divided by the divisor's magnitude, rounded by the mode, signed by the exclusive or of the signs; then reduced
modulo `2^W`, or checked for the range. -/
def Obligations.FdivResults : Prop :=
  ∀ (w : Width) (rm sc : Nat), (Instr.fdivW w rm sc).opcode = 0x22#8 ∧ (Instr.fdivW w rm sc).format = .F ∧
    (Instr.fdivC w rm sc).opcode = 0x23#8 ∧ (Instr.fdivC w rm sc).format = .F ∧
    ∀ (s : State) (c : Command), s.phase = .busy c →
      (w.maxScale < sc → exec (.fdivW w rm sc) s = .next (s.completed (.fault .invalidScale)) ∧
        exec (.fdivC w rm sc) s = .next (s.completed (.fault .invalidScale))) ∧
      (sc ≤ w.maxScale → 4 < rm → exec (.fdivW w rm sc) s = .next (s.completed (.fault .invalidRoundingMode)) ∧
        exec (.fdivC w rm sc) s = .next (s.completed (.fault .invalidRoundingMode))) ∧
      (sc ≤ w.maxScale → rm ≤ 4 → w.sint c.opb = 0 → exec (.fdivW w rm sc) s = .next (s.completed (.fault .divideByZero)) ∧
        exec (.fdivC w rm sc) s = .next (s.completed (.fault .divideByZero))) ∧
      ∀ m : RoundingMode, sc ≤ w.maxScale → RoundingMode.ofNumber rm = some m →
        ∀ (a b V : Int) (neg : Bool) (N d Q : Nat), a = w.sint c.opa → b = w.sint c.opb → b ≠ 0 → neg = xor (a < 0) (b < 0) →
          N = a.natAbs * 10 ^ sc → d = b.natAbs →
          Q = N / d + (if roundInc (N / d) (N % d) d neg m then 1 else 0) →
          V = (if neg then -(Q : Int) else Q) →
          ∃ res : Wide, (res.toNat : Int) = V % 2 ^ w.bits ∧
            exec (.fdivW w rm sc) s = .next (s.completed (.ok res 0)) ∧
            (w.fits V = true → w.sint res = V ∧ exec (.fdivC w rm sc) s = .next (s.completed (.ok res 0))) ∧
            (w.fits V = false → exec (.fdivC w rm sc) s = .next (s.completed (.fault .overflow)))

/-- R180, R181, R182: with scale and mode in range and a divisor that is not zero FDIV.W wraps and FDIV.C checks the value `divExact`,
and that value is the true quotient `a * 10^s / b` correctly rounded. -/
def Obligations.DivideIsCorrectlyRounded : Prop :=
  (∀ (s : State) (c : Command) (w : Width) (rm sc : Nat) (m : RoundingMode) (V : Int), s.phase = .busy c → sc ≤ w.maxScale →
    RoundingMode.ofNumber rm = some m → w.sint c.opb ≠ 0 → V = divExact (w.sint c.opa) (w.sint c.opb) sc m →
    exec (.fdivW w rm sc) s = .next (s.completed (.ok (w.wrap V) 0)) ∧
    exec (.fdivC w rm sc) s = .next (s.completed (if w.fits V then .ok (w.wrap V) 0 else .fault .overflow))) ∧
  ∀ (a b : Int) (sc : Nat), b ≠ 0 →
    (2 * |a * 10 ^ sc - divExact a b sc .rne * b| ≤ |b| ∧
      (2 * |a * 10 ^ sc - divExact a b sc .rne * b| = |b| → divExact a b sc .rne % 2 = 0)) ∧
    (2 * |a * 10 ^ sc - divExact a b sc .rha * b| ≤ |b| ∧
      (2 * |a * 10 ^ sc - divExact a b sc .rha * b| = |b| → |a| * 10 ^ sc < |divExact a b sc .rha * b|)) ∧
    divExact a b sc .rdn = (a * 10 ^ sc).fdiv b ∧
    divExact a b sc .rup = -((-(a * 10 ^ sc)).fdiv b) ∧
    divExact a b sc .rtz = (a * 10 ^ sc).tdiv b

/-- R213: FDIV.W and FDIV.C fault on a divisor whose low `W` bits are zero, whatever the dividend, and DIV128BY64 on one whose low 64 bits
are; no other command raises DivideByZero. -/
def Obligations.ZeroDivisorFaults : Prop :=
  (∀ (s : State) (c : Command), s.phase = .busy c →
    (∀ (w : Width) (rm sc : Nat), sc ≤ w.maxScale → rm ≤ 4 → c.opb.toNat % 2 ^ w.bits = 0 →
      exec (.fdivW w rm sc) s = .next (s.completed (.fault .divideByZero)) ∧
      exec (.fdivC w rm sc) s = .next (s.completed (.fault .divideByZero))) ∧
    (c.opb.toNat % 2 ^ 64 = 0 → exec .div128by64 s = .next (s.completed (.fault .divideByZero)))) ∧
  ∀ (i : Instr) (s t : State), exec i s = .next t → t.response = some (.fault .divideByZero) →
    i = .div128by64 ∨ ∃ (w : Width) (rm sc : Nat), i = .fdivW w rm sc ∨ i = .fdivC w rm sc

/-- R190: RESCALE.C: the fault of either scale, then the mode fault; else exact when the target has at least as many digits, and divided
and rounded by the caller's mode when it has fewer; Overflow exactly when the value does not fit. -/
def Obligations.RescaleResult : Prop :=
  ∀ (w : Width) (rm sc tc : Nat), (Instr.rescaleC w rm sc tc).opcode = 0x25#8 ∧ (Instr.rescaleC w rm sc tc).format = .R ∧
    ∀ (s : State) (c : Command), s.phase = .busy c →
      (w.maxScale < sc ∨ w.maxScale < tc → exec (.rescaleC w rm sc tc) s = .next (s.completed (.fault .invalidScale))) ∧
      (sc ≤ w.maxScale → tc ≤ w.maxScale → 4 < rm →
        exec (.rescaleC w rm sc tc) s = .next (s.completed (.fault .invalidRoundingMode))) ∧
      ∀ m : RoundingMode, sc ≤ w.maxScale → tc ≤ w.maxScale → RoundingMode.ofNumber rm = some m →
        ∀ (v V : Int) (D Q : Nat), v = w.sint c.opa → D = 10 ^ (sc - tc) →
          Q = v.natAbs / D + (if roundInc (v.natAbs / D) (v.natAbs % D) D (v < 0) m then 1 else 0) →
          V = (if sc ≤ tc then v * 10 ^ (tc - sc) else if v < 0 then -(Q : Int) else Q) →
          (w.fits V = true → ∃ res : Wide, exec (.rescaleC w rm sc tc) s = .next (s.completed (.ok res 0)) ∧
            (res.toNat : Int) = V % 2 ^ w.bits ∧ w.sint res = V) ∧
          (w.fits V = false → exec (.rescaleC w rm sc tc) s = .next (s.completed (.fault .overflow)))

/-- R191 item 4: dropping digits never overflows: from a larger to a smaller scale RESCALE.C always answers OK. -/
def Obligations.RescaleDownNeverOverflows : Prop :=
  ∀ (w : Width) (rm sc tc : Nat) (s : State) (c : Command), s.phase = .busy c → sc ≤ w.maxScale → tc < sc → rm ≤ 4 →
    ∃ res : Wide, exec (.rescaleC w rm sc tc) s = .next (s.completed (.ok res 0))

/-- R193: rescaling up by RESCALE.C and then down by the same digits, in any modes, gives back the raw value. -/
def Obligations.RescaleUpThenDownIsIdentity : Prop :=
  ∀ (w : Width) (rm rm' sc tc : Nat) (s s' : State) (c c' : Command) (x : Wide),
    s.phase = .busy c → s'.phase = .busy c' → sc ≤ tc → tc ≤ w.maxScale → rm ≤ 4 → rm' ≤ 4 →
    exec (.rescaleC w rm sc tc) s = .next (s.completed (.ok x 0)) → c'.opa = x →
    w.sint x = w.sint c.opa * 10 ^ (tc - sc) ∧
    ∃ v : Wide, v.toNat = c.opa.toNat % 2 ^ w.bits ∧
      exec (.rescaleC w rm' tc sc) s' = .next (s'.completed (.ok v 0))

/-! ### Compare and classify -/

/-- R200: FCMP compares the signed raw values; exactly one of the bits EQ, LT, GT is 1; the scale is only checked. -/
def Obligations.FcmpReportsSignedOrder : Prop :=
  ∀ (w : Width) (sc : Nat), (Instr.fcmp w sc).opcode = 0x4C#8 ∧ (Instr.fcmp w sc).format = .X ∧
    ∀ (s : State) (c : Command), s.phase = .busy c →
      (sc ≤ w.maxScale → ∃ res : Wide, exec (.fcmp w sc) s = .next (s.completed (.ok res 0)) ∧
        (res = 1 ↔ w.sint c.opa = w.sint c.opb) ∧ (res = 2 ↔ w.sint c.opa < w.sint c.opb) ∧
        (res = 4 ↔ w.sint c.opb < w.sint c.opa) ∧ (res = 1 ∨ res = 2 ∨ res = 4)) ∧
      (w.maxScale < sc → exec (.fcmp w sc) s = .next (s.completed (.fault .invalidScale)))

/-- R201: FCLASS: its six bits from the lowest: zero, negative, not negative, divisible by `10^s`, then with an even, with an odd integer
part; the rest zero. -/
def Obligations.FclassReportsSixPredicates : Prop :=
  ∀ (w : Width) (sc : Nat), (Instr.fclass w sc).opcode = 0x4E#8 ∧ (Instr.fclass w sc).format = .X ∧
    ∀ (s : State) (c : Command), s.phase = .busy c →
      (sc ≤ w.maxScale → ∃ res : Wide, exec (.fclass w sc) s = .next (s.completed (.ok res 0)) ∧
        (res.getLsbD 0 = true ↔ w.sint c.opa = 0) ∧ (res.getLsbD 1 = true ↔ w.sint c.opa < 0) ∧
        (res.getLsbD 2 = true ↔ 0 ≤ w.sint c.opa) ∧ (res.getLsbD 3 = true ↔ (10 : Int) ^ sc ∣ w.sint c.opa) ∧
        (res.getLsbD 4 = true ↔ ∃ k : Int, w.sint c.opa = 2 * k * 10 ^ sc) ∧
        (res.getLsbD 5 = true ↔ ∃ k : Int, w.sint c.opa = (2 * k + 1) * 10 ^ sc) ∧
        res.toNat < 64) ∧
      (w.maxScale < sc → exec (.fclass w sc) s = .next (s.completed (.fault .invalidScale)))

/-- R202 item 2: an FCLASS result is one of seven values. -/
def Obligations.FclassHasSevenResults : Prop :=
  ∀ (w : Width) (sc : Nat) (s : State) (c : Command), s.phase = .busy c → sc ≤ w.maxScale →
    ∃ res : Wide, exec (.fclass w sc) s = .next (s.completed (.ok res 0)) ∧
      res.toNat ∈ [2, 4, 26, 28, 29, 42, 44]

/-- R202 items 3 and 4: FCMP of the exchanged operands is the opposite order, and where FSUB.C does not overflow, the FCLASS of its result
agrees with FCMP on equal and on less. -/
def Obligations.FcmpAgreesWithSubtraction : Prop :=
  ∀ (w : Width) (sc : Nat) (s s' : State) (c c' : Command) (d : Wide),
    s.phase = .busy c → s'.phase = .busy c' → sc ≤ w.maxScale →
    (c'.opa = c.opb → c'.opb = c.opa →
      (exec (.fcmp w sc) s = .next (s.completed (.ok 2 0)) ↔ exec (.fcmp w sc) s' = .next (s'.completed (.ok 4 0)))) ∧
    (exec (.fsubC w sc) s = .next (s.completed (.ok d 0)) → c'.opa = d →
      ∃ res : Wide, exec (.fclass w sc) s' = .next (s'.completed (.ok res 0)) ∧
        (res.getLsbD 0 = true ↔ exec (.fcmp w sc) s = .next (s.completed (.ok 1 0))) ∧
        (res.getLsbD 1 = true ↔ exec (.fcmp w sc) s = .next (s.completed (.ok 2 0))))

/-! ### Faults -/

/-- R211: the seven status codes; no other is produced. -/
def Obligations.StatusCodes : Prop :=
  (∀ res aux, (Response.ok res aux).status = 0#4) ∧
  (Response.fault .overflow).status = 1#4 ∧ (Response.fault .divideByZero).status = 2#4 ∧
  (Response.fault .invalidRoundingMode).status = 3#4 ∧ (Response.fault .invalidScale).status = 4#4 ∧
  (Response.fault .illegalCommand).status = 5#4 ∧ (Response.fault .invalidOperand).status = 6#4 ∧
  ∀ r : Response, r.status.toNat ≤ 6

/-- R215: every command that has a scale faults on one out of its range, in the wrapping and the checked form alike, whatever the mode and the
operands. -/
def Obligations.ScaleOutOfRangeFaults : Prop :=
  ∀ (s : State) (c : Command), s.phase = .busy c →
    (∀ (w : Width) (rm sc tc : Nat),
      (w.maxScale < sc →
        ∀ i ∈ [Instr.fmulW w rm sc, .fmulC w rm sc, .fdivW w rm sc, .fdivC w rm sc, .fromdecW w sc, .fromdecC w sc,
            .todec w sc, .faddW w sc, .faddC w sc, .fsubW w sc, .fsubC w sc, .fnegW w sc, .fnegC w sc, .fabsW w sc,
            .fabsC w sc, .fincW w sc, .fincC w sc, .fdecW w sc, .fdecC w sc, .fcmp w sc, .fclass w sc],
          exec i s = .next (s.completed (.fault .invalidScale))) ∧
      (w.maxScale < sc ∨ w.maxScale < tc →
        exec (.rescaleC w rm sc tc) s = .next (s.completed (.fault .invalidScale)))) ∧
    (∀ sc, 38 < sc → exec (.divpow10 sc) s = .next (s.completed (.fault .invalidScale)))

/-- R126, R214: every command that has a mode faults on 5, 6 and 7 once its scales are in range, whatever the operands and whether or not it
would have rounded; and a word with such a number in that field decodes to no other command. -/
def Obligations.UnknownModeFaults : Prop :=
  (∀ (s : State) (c : Command) (w : Width) (rm sc tc : Nat), s.phase = .busy c → sc ≤ w.maxScale → tc ≤ w.maxScale → 4 < rm →
    ∀ i ∈ [Instr.fmulW w rm sc, .fmulC w rm sc, .fdivW w rm sc, .fdivC w rm sc, .rescaleC w rm sc tc],
      exec i s = .next (s.completed (.fault .invalidRoundingMode))) ∧
  ∀ (c : Word) (i : Instr), 4 < bits c 11 9 → decode c = .ok i →
    ∃ (w : Width) (sc tc : Nat), i ∈ [Instr.fmulW w (bits c 11 9) sc, .fmulC w (bits c 11 9) sc, .fdivW w (bits c 11 9) sc,
      .fdivC w (bits c 11 9) sc, .rescaleC w (bits c 11 9) sc tc]

/-- R219: a command reports no fault but those its row of the table of R219 names. -/
def Obligations.CommandsReportOnlyTheirFaults : Prop :=
  ∀ (i : Instr) (s t : State) (f : CommandFault), exec i s = .next t → t.response = some (.fault f) → f ∈ reportable i

/-- R220: for every pair of forms, every state and operands: a fault of either but Overflow is the fault of both; an OK of the checked form is
the wrapping form's; and where the checked form reports Overflow the pair has an exact result `V`, the same for both, that does not fit,
and the wrapping form answers OK with `V` modulo `2^W`, zero-extended. A row is the wrapping form, the checked form, and their exact
result where there is one (a mode is one of the five, a decimal is well formed). -/
def Obligations.CheckedAndWrappingFormsAgree : Prop :=
  ∀ (s : State) (c : Command) (w : Width) (rm sc : Nat), s.phase = .busy c →
    ∀ (a b : Int), a = w.sint c.opa → b = w.sint c.opb →
    ∀ row ∈ [(Instr.fmulW w rm sc, Instr.fmulC w rm sc, (RoundingMode.ofNumber rm).map (mulExact a b sc)),
        (.fdivW w rm sc, .fdivC w rm sc, (RoundingMode.ofNumber rm).map (divExact a b sc)),
        (.fromdecW w sc, .fromdecC w sc, (decodeDec c.opa).map fun x => fromDecimalExact x sc),
        (.faddW w sc, .faddC w sc, some (a + b)), (.fsubW w sc, .fsubC w sc, some (a - b)),
        (.fnegW w sc, .fnegC w sc, some (-a)), (.fabsW w sc, .fabsC w sc, some |a|),
        (.fincW w sc, .fincC w sc, some (a + 10 ^ sc)), (.fdecW w sc, .fdecC w sc, some (a - 10 ^ sc))],
      ∃ rW rC : Response, exec row.1 s = .next (s.completed rW) ∧ exec row.2.1 s = .next (s.completed rC) ∧
        (∀ f, f ≠ .overflow → (rW = .fault f ↔ rC = .fault f)) ∧
        (∀ res aux, rC = .ok res aux → rW = .ok res aux) ∧
        (rC = .fault .overflow → ∃ V, row.2.2 = some V ∧ w.fits V = false ∧ rW = .ok (w.wrap V) 0) ∧
        rW ≠ .fault .overflow

/-- R218: the order in which FDIV.C, FROMDEC.C and RESCALE.C test their fault conditions: the first that holds is the one reported, whatever
holds after it. -/
def Obligations.FirstFaultInOrderIsReported : Prop :=
  ∀ (s : State) (c : Command) (w : Width) (rm sc tc : Nat), s.phase = .busy c →
    (exec (.fdivC w rm sc) s = .next (s.completed
      (if w.maxScale < sc then .fault .invalidScale
        else if 4 < rm then .fault .invalidRoundingMode
        else if w.sint c.opb = 0 then .fault .divideByZero
        else match RoundingMode.ofNumber rm with
          | some m => if w.fits (divExact (w.sint c.opa) (w.sint c.opb) sc m) then
              .ok (w.wrap (divExact (w.sint c.opa) (w.sint c.opb) sc m)) 0 else .fault .overflow
          | none => .fault .invalidRoundingMode))) ∧
    (exec (.fromdecC w sc) s = .next (s.completed
      (if w.maxScale < sc then .fault .invalidScale
        else match decodeDec c.opa with
          | none => .fault .invalidOperand
          | some x => if w.fits (fromDecimalExact x sc) then .ok (w.wrap (fromDecimalExact x sc)) 0 else .fault .overflow))) ∧
    (exec (.rescaleC w rm sc tc) s = .next (s.completed
      (if w.maxScale < sc ∨ w.maxScale < tc then .fault .invalidScale
        else match RoundingMode.ofNumber rm with
          | none => .fault .invalidRoundingMode
          | some m => if w.fits (rescaleExact (w.sint c.opa) sc tc m) then
              .ok (w.wrap (rescaleExact (w.sint c.opa) sc tc m)) 0 else .fault .overflow)))
end

