-- ==== Sys2Proof/Laws/Encoding.lean ====
section
/-! SUPPORT. The fields of a packed command word. -/

namespace Sys2Proof

/-- Bits `hi` to `lo` as a number: shift down, keep the width. -/
theorem bits_eq {n : Nat} (v : BitVec n) (hi lo : Nat) : bits v hi lo = v.toNat / 2 ^ lo % 2 ^ (hi - lo + 1) := by
  simp [bits, BitVec.extractLsb, Nat.shiftRight_eq_div_pow]

/-- The value of a concatenation: the high part counts `2 ^ m` times. -/
theorem toNat_concat {n m : Nat} (x : BitVec n) (y : BitVec m) : (x ++ y).toNat = x.toNat * 2 ^ m + y.toNat := by
  rw [BitVec.toNat_append, ← Nat.shiftLeft_add_eq_or_of_lt y.isLt, Nat.shiftLeft_eq]

/-- Fields within their widths make a word whose value is the sum of the fields at their places (30_encoding.md R65). -/
theorem packWord_toNat (op : BitVec 8) (f : Fields) (hw : f.w < 2) (hrm : f.rm < 8) (hs : f.s < 64) (ht : f.t < 64)
    (hsh : f.sh < 128) :
    (packWord op f).toNat =
      op.toNat + 256 * f.w + 512 * f.rm + 4096 * f.s + 262144 * f.t + 16777216 * f.sh := by
  unfold packWord
  simp only [toNat_concat, BitVec.toNat_ofNat]
  omega

/-- A packed word holds its opcode and fields at the places of R51, and bit 31 is zero. -/
theorem packWord_fields (op : BitVec 8) (f : Fields) (hw : f.w < 2) (hrm : f.rm < 8) (hs : f.s < 64) (ht : f.t < 64)
    (hsh : f.sh < 128) :
    bits (packWord op f) 31 31 = 0 ∧ bits (packWord op f) 7 0 = op.toNat ∧ fieldsOf (packWord op f) = f := by
  have hop := op.isLt
  refine ⟨?_, ?_, ?_⟩
  · rw [bits_eq, packWord_toNat op f hw hrm hs ht hsh]; omega
  · rw [bits_eq, packWord_toNat op f hw hrm hs ht hsh]; omega
  · obtain ⟨w, rm, s, t, sh⟩ := f
    simp only [fieldsOf, bits_eq, packWord_toNat op _ hw hrm hs ht hsh, Fields.mk.injEq]
    simp only at hw hrm hs ht hsh
    omega

end Sys2Proof
end

