-- ==== Sys2Proof/Laws/State.lean ====
section
/-! SUPPORT. One lemma per field per update of State. -/

namespace Sys2Proof.Machine

@[simp] theorem State.completed_phase (s : State) (r : Response) : (s.completed r).phase = .idle := rfl
@[simp] theorem State.completed_response (s : State) (r : Response) : (s.completed r).response = some r := rfl
@[simp] theorem State.completed_rom (s : State) (r : Response) : (s.completed r).rom = s.rom := rfl
@[simp] theorem State.completed_schedule (s : State) (r : Response) : (s.completed r).schedule = s.schedule := rfl

@[simp] theorem State.issued_phase (s : State) (c : Command) : (s.issued c).phase = .busy c := rfl
@[simp] theorem State.issued_response (s : State) (c : Command) : (s.issued c).response = none := rfl
@[simp] theorem State.issued_rom (s : State) (c : Command) : (s.issued c).rom = s.rom := rfl
@[simp] theorem State.issued_schedule (s : State) (c : Command) : (s.issued c).schedule = s.schedule := rfl

@[simp] theorem State.resetInput_phase (s : State) : s.resetInput.phase = .idle := rfl
@[simp] theorem State.resetInput_response (s : State) : s.resetInput.response = none := rfl
@[simp] theorem State.resetInput_rom (s : State) : s.resetInput.rom = s.rom := rfl
@[simp] theorem State.resetInput_schedule (s : State) : s.resetInput.schedule = s.schedule := rfl

@[simp] theorem State.reset_phase : State.reset.phase = .idle := rfl
@[simp] theorem State.reset_response : State.reset.response = none := rfl
@[simp] theorem State.reset_rom : State.reset.rom = romTable := rfl
@[simp] theorem State.reset_schedule : State.reset.schedule = [] := rfl

end Sys2Proof.Machine
end

