-- ==== Sys2Proof/Laws/Ops.lean ====
section
/-! SUPPORT. For each shared operation, one lemma that says everything it can do. -/

namespace Sys2Proof.Machine

@[simp] theorem respond_eq (res aux : Wide) : respond res aux = .ok res aux := rfl
@[simp] theorem raise_eq (f : CommandFault) : raise f = .fault f := rfl

/-- With a command in flight, an operation completes it with the response of its rule. -/
theorem completeWith_of_busy {s : State} {c : Command} (h : s.phase = .busy c) (f : Wide → Wide → Response) :
    completeWith s f = .next (s.completed (f c.opa c.opb)) := by
  simp [completeWith, h]

/-- With no command in flight there is nothing to complete. -/
theorem completeWith_of_idle {s : State} (h : s.phase = .idle) (f : Wide → Wide → Response) :
    completeWith s f = .refused .noCommandInFlight := by
  simp [completeWith, h]

/-- All that completing a command can do: the latched operands go to the rule, its response is emitted, and the phase is
IDLE; nothing else changes. -/
theorem completeWith_next {s t : State} {f : Wide → Wide → Response} (h : completeWith s f = .next t) :
    ∃ c, s.phase = .busy c ∧ t = s.completed (f c.opa c.opb) := by
  unfold completeWith at h
  split at h
  · next c hc => exact ⟨c, hc, by cases h; rfl⟩
  · cases h

/-- The ways a turn can go: an event of the schedule that changes no command, an issue, a reset, or the completion of the
command in flight. -/
theorem turn_cases (s : State) :
    (∃ rest, s.schedule = .reset :: rest ∧ turn s = (State.resetInput { s with schedule := rest }, none)) ∨
    (∃ rest, s.schedule = .hold :: rest ∧ turn s = ({ s with schedule := rest }, none)) ∨
    (∃ c rest, s.phase = .idle ∧ s.schedule = .issue c :: rest ∧
      turn s = (State.issued { s with schedule := rest } c, none)) ∨
    (∃ rest, s.phase = .idle ∧ s.schedule = .wait :: rest ∧ turn s = ({ s with schedule := rest }, none)) ∨
    (s.phase = .idle ∧ s.schedule = [] ∧ turn s = (s, none)) ∨
    (∃ c rest, s.phase = .busy c ∧ s.schedule = .wait :: rest ∧ turn s = ({ s with schedule := rest }, some c)) ∨
    (∃ c, s.phase = .busy c ∧ (s.schedule = [] ∨ ∃ d rest, s.schedule = .issue d :: rest) ∧ turn s = (s, some c)) := by
  obtain ⟨phase, response, rom, schedule⟩ := s
  cases phase <;> rcases schedule with _ | ⟨_ | _ | _ | _, rest⟩ <;> simp [turn]

/-- A scale in range passes its check. -/
@[simp] theorem checkScale_of_le {w : Width} {sc : Nat} (h : sc ≤ w.maxScale) (k : Response) : checkScale w sc k = k := by
  simp [checkScale, Nat.not_lt.mpr h]

/-- A scale out of range is the fault InvalidScale, whatever else the command holds. -/
@[simp] theorem checkScale_of_lt {w : Width} {sc : Nat} (h : w.maxScale < sc) (k : Response) :
    checkScale w sc k = .fault .invalidScale := by
  simp [checkScale, h]

/-- The mode check passes exactly on the five modes. -/
theorem checkMode_of_some {rm : Nat} {m : RoundingMode} (h : RoundingMode.ofNumber rm = some m)
    (k : RoundingMode → Response) : checkMode rm k = k m := by
  simp [checkMode, h]

theorem checkMode_of_none {rm : Nat} (h : RoundingMode.ofNumber rm = none) (k : RoundingMode → Response) :
    checkMode rm k = .fault .invalidRoundingMode := by
  simp [checkMode, h]

/-- A number is a mode exactly when it is at most 4 (30_encoding.md R54). -/
theorem RoundingMode.ofNumber_eq_none {rm : Nat} : Sys2Proof.RoundingMode.ofNumber rm = none ↔ 4 < rm := by
  rcases rm with _ | _ | _ | _ | _ | n <;> simp [Sys2Proof.RoundingMode.ofNumber]

/-- A checked result is the wrapped one or Overflow. -/
theorem narrowChecked_cases (w : Width) (v : Int) :
    (w.fits v = true ∧ narrowChecked w v = narrowWrapping w v) ∨
      (w.fits v = false ∧ narrowChecked w v = .fault .overflow) := by
  cases h : w.fits v <;> simp [narrowChecked, h]

@[simp] theorem narrowWrapping_eq (w : Width) (v : Int) : narrowWrapping w v = .ok (w.wrap v) 0 := rfl

@[simp] theorem checkDivisor_true (k : Response) : checkDivisor true k = .fault .divideByZero := rfl
@[simp] theorem checkDivisor_false (k : Response) : checkDivisor false k = k := rfl

@[simp] theorem Width.half_w32 : Width.half .w32 = 2147483648 := rfl
@[simp] theorem Width.half_w64 : Width.half .w64 = 9223372036854775808 := rfl

end Sys2Proof.Machine
end

