-- ==== Sys2Proof/Laws/Meanings.lean ====
section
/-! SUPPORT. What the operations of one family, and the turn of a completing unit, can do. -/

namespace Sys2Proof.Machine

/-- A turn that completes takes up the command in flight; only a `wait` leaves the schedule. -/
theorem turn_of_completing {s : State} {c : Command} (h : s.Completing c) :
    turn s = ({ s with schedule := s.scheduleAfter }, some c) := by
  obtain ⟨phase, response, rom, schedule⟩ := s
  obtain ⟨rfl, h⟩ := h
  rcases schedule with _ | ⟨_ | _ | _ | _, rest⟩ <;> simp [turn, State.scheduleAfter] at *

/-- With a command in flight, each of the twelve operators answers the scale fault or its narrowed exact result. -/
theorem completeFixed_of_busy {s : State} {c : Command} (h : s.phase = .busy c) (w : Width) (sc : Nat)
    (narrow : Width → Int → Response) (exact : Int → Int → Int) :
    completeFixed w sc s narrow exact =
      .next (s.completed (checkScale w sc (narrow w (exact (w.sint c.opa) (w.sint c.opb))))) :=
  completeWith_of_busy h _

/-- A well-formed decimal goes on. -/
theorem checkDecimal_of_some {opa : Wide} {x : Decimal} (h : decodeDec opa = some x) (k : Decimal → Response) :
    checkDecimal opa k = k x := by
  simp [checkDecimal, h]

/-- A malformed one is the fault InvalidOperand. -/
theorem checkDecimal_of_none {opa : Wide} (h : decodeDec opa = none) (k : Decimal → Response) :
    checkDecimal opa k = .fault .invalidOperand := by
  simp [checkDecimal, h]

/-- Digit count 0 takes no reciprocal. -/
theorem divideByPower_zero (rom : Rom) (n : Wide) : divideByPower rom 0 n = (n, 0) := by
  simp [divideByPower]

/-- Every other digit count multiplies by the table's reciprocal and subtracts. -/
theorem divideByPower_of_ne {d : Fin 39} (h : d ≠ 0) (rom : Rom) (n : Wide) :
    divideByPower rom d n =
      (reciprocalQuotient (rom.get d) n, n - reciprocalQuotient (rom.get d) n * (rom.get d).divisor) := by
  simp [divideByPower, h]

/-- A checked result fits when it lies between the bounds. -/
theorem Width.fits_iff (w : Width) (v : Int) : w.fits v = true ↔ -(w.half : Int) ≤ v ∧ v ≤ (w.half : Int) - 1 :=
  decide_eq_true_iff

end Sys2Proof.Machine
end

