-- ==== Sys2Proof/Laws/PerInstr.lean ====
section
/-! SUPPORT. Families of facts about every command, one lemma per constructor. -/

namespace Sys2Proof

@[simp] theorem scaleFits_iff (n : Nat) : scaleFits n = true ↔ n < 64 := by simp [scaleFits]
@[simp] theorem modeFits_iff (n : Nat) : modeFits n = true ↔ n < 8 := by simp [modeFits]
@[simp] theorem shiftFits_iff (n : Nat) : shiftFits n = true ↔ n < 128 := by simp [shiftFits]
@[simp] theorem Width.toBit_le (w : Width) : w.toBit ≤ 1 := by cases w <;> decide
@[simp] theorem Width.ofBit_toBit (w : Width) : Width.ofBit w.toBit = w := by cases w <;> rfl

namespace Laws

/-- The word of a well-formed command has bit 31 zero, carries the command's opcode, and every field comes back from it
as it went in (30_encoding.md R51, R57). -/
def EncodeKeepsFields.Statement (i : Instr) : Prop :=
  i.WellFormed →
    bits (encode i) 31 31 = 0 ∧ bits (encode i) 7 0 = i.opcode.toNat ∧ fieldsOf (encode i) = i.fields

theorem EncodeKeepsFields.of_bounds (i : Instr)
    (h : i.wellFormed = true →
      i.fields.w < 2 ∧ i.fields.rm < 8 ∧ i.fields.s < 64 ∧ i.fields.t < 64 ∧ i.fields.sh < 128) :
    EncodeKeepsFields.Statement i := fun hi =>
  have ⟨hw, hrm, hs, ht, hsh⟩ := h hi
  packWord_fields i.opcode i.fields hw hrm hs ht hsh

theorem EncodeKeepsFields.add128 : EncodeKeepsFields.Statement (.add128) :=
  EncodeKeepsFields.of_bounds _ (by simp [Instr.fields, Fields.none])

theorem EncodeKeepsFields.sub128 : EncodeKeepsFields.Statement (.sub128) :=
  EncodeKeepsFields.of_bounds _ (by simp [Instr.fields, Fields.none])

theorem EncodeKeepsFields.cmp128 : EncodeKeepsFields.Statement (.cmp128) :=
  EncodeKeepsFields.of_bounds _ (by simp [Instr.fields, Fields.none])

theorem EncodeKeepsFields.shl128 (sh : Nat) : EncodeKeepsFields.Statement (.shl128 sh) :=
  EncodeKeepsFields.of_bounds _ (by simp +contextual [Instr.wellFormed, Instr.fields, Fields.none])

theorem EncodeKeepsFields.shr128 (sh : Nat) : EncodeKeepsFields.Statement (.shr128 sh) :=
  EncodeKeepsFields.of_bounds _ (by simp +contextual [Instr.wellFormed, Instr.fields, Fields.none])

theorem EncodeKeepsFields.mul128 : EncodeKeepsFields.Statement (.mul128) :=
  EncodeKeepsFields.of_bounds _ (by simp [Instr.fields, Fields.none])

theorem EncodeKeepsFields.mul128x64 : EncodeKeepsFields.Statement (.mul128x64) :=
  EncodeKeepsFields.of_bounds _ (by simp [Instr.fields, Fields.none])

theorem EncodeKeepsFields.div128by64 : EncodeKeepsFields.Statement (.div128by64) :=
  EncodeKeepsFields.of_bounds _ (by simp [Instr.fields, Fields.none])

theorem EncodeKeepsFields.divpow10 (sc : Nat) : EncodeKeepsFields.Statement (.divpow10 sc) :=
  EncodeKeepsFields.of_bounds _ (by simp +contextual [Instr.wellFormed, Instr.fields, Fields.none])

theorem EncodeKeepsFields.fmulW (w : Width) (rm : Nat) (sc : Nat) : EncodeKeepsFields.Statement (.fmulW w rm sc) :=
  EncodeKeepsFields.of_bounds _ (by simp +contextual [Instr.wellFormed, Instr.fields, Fields.none])

theorem EncodeKeepsFields.fmulC (w : Width) (rm : Nat) (sc : Nat) : EncodeKeepsFields.Statement (.fmulC w rm sc) :=
  EncodeKeepsFields.of_bounds _ (by simp +contextual [Instr.wellFormed, Instr.fields, Fields.none])

theorem EncodeKeepsFields.fdivW (w : Width) (rm : Nat) (sc : Nat) : EncodeKeepsFields.Statement (.fdivW w rm sc) :=
  EncodeKeepsFields.of_bounds _ (by simp +contextual [Instr.wellFormed, Instr.fields, Fields.none])

theorem EncodeKeepsFields.fdivC (w : Width) (rm : Nat) (sc : Nat) : EncodeKeepsFields.Statement (.fdivC w rm sc) :=
  EncodeKeepsFields.of_bounds _ (by simp +contextual [Instr.wellFormed, Instr.fields, Fields.none])

theorem EncodeKeepsFields.rescaleC (w : Width) (rm : Nat) (sc : Nat) (tc : Nat) : EncodeKeepsFields.Statement (.rescaleC w rm sc tc) :=
  EncodeKeepsFields.of_bounds _ (by simp +contextual [Instr.wellFormed, Instr.fields, Fields.none])

theorem EncodeKeepsFields.fromdecW (w : Width) (sc : Nat) : EncodeKeepsFields.Statement (.fromdecW w sc) :=
  EncodeKeepsFields.of_bounds _ (by simp +contextual [Instr.wellFormed, Instr.fields, Fields.none])

theorem EncodeKeepsFields.fromdecC (w : Width) (sc : Nat) : EncodeKeepsFields.Statement (.fromdecC w sc) :=
  EncodeKeepsFields.of_bounds _ (by simp +contextual [Instr.wellFormed, Instr.fields, Fields.none])

theorem EncodeKeepsFields.todec (w : Width) (sc : Nat) : EncodeKeepsFields.Statement (.todec w sc) :=
  EncodeKeepsFields.of_bounds _ (by simp +contextual [Instr.wellFormed, Instr.fields, Fields.none])

theorem EncodeKeepsFields.faddW (w : Width) (sc : Nat) : EncodeKeepsFields.Statement (.faddW w sc) :=
  EncodeKeepsFields.of_bounds _ (by simp +contextual [Instr.wellFormed, Instr.fields, Fields.none])

theorem EncodeKeepsFields.faddC (w : Width) (sc : Nat) : EncodeKeepsFields.Statement (.faddC w sc) :=
  EncodeKeepsFields.of_bounds _ (by simp +contextual [Instr.wellFormed, Instr.fields, Fields.none])

theorem EncodeKeepsFields.fsubW (w : Width) (sc : Nat) : EncodeKeepsFields.Statement (.fsubW w sc) :=
  EncodeKeepsFields.of_bounds _ (by simp +contextual [Instr.wellFormed, Instr.fields, Fields.none])

theorem EncodeKeepsFields.fsubC (w : Width) (sc : Nat) : EncodeKeepsFields.Statement (.fsubC w sc) :=
  EncodeKeepsFields.of_bounds _ (by simp +contextual [Instr.wellFormed, Instr.fields, Fields.none])

theorem EncodeKeepsFields.fnegW (w : Width) (sc : Nat) : EncodeKeepsFields.Statement (.fnegW w sc) :=
  EncodeKeepsFields.of_bounds _ (by simp +contextual [Instr.wellFormed, Instr.fields, Fields.none])

theorem EncodeKeepsFields.fnegC (w : Width) (sc : Nat) : EncodeKeepsFields.Statement (.fnegC w sc) :=
  EncodeKeepsFields.of_bounds _ (by simp +contextual [Instr.wellFormed, Instr.fields, Fields.none])

theorem EncodeKeepsFields.fabsW (w : Width) (sc : Nat) : EncodeKeepsFields.Statement (.fabsW w sc) :=
  EncodeKeepsFields.of_bounds _ (by simp +contextual [Instr.wellFormed, Instr.fields, Fields.none])

theorem EncodeKeepsFields.fabsC (w : Width) (sc : Nat) : EncodeKeepsFields.Statement (.fabsC w sc) :=
  EncodeKeepsFields.of_bounds _ (by simp +contextual [Instr.wellFormed, Instr.fields, Fields.none])

theorem EncodeKeepsFields.fincW (w : Width) (sc : Nat) : EncodeKeepsFields.Statement (.fincW w sc) :=
  EncodeKeepsFields.of_bounds _ (by simp +contextual [Instr.wellFormed, Instr.fields, Fields.none])

theorem EncodeKeepsFields.fincC (w : Width) (sc : Nat) : EncodeKeepsFields.Statement (.fincC w sc) :=
  EncodeKeepsFields.of_bounds _ (by simp +contextual [Instr.wellFormed, Instr.fields, Fields.none])

theorem EncodeKeepsFields.fdecW (w : Width) (sc : Nat) : EncodeKeepsFields.Statement (.fdecW w sc) :=
  EncodeKeepsFields.of_bounds _ (by simp +contextual [Instr.wellFormed, Instr.fields, Fields.none])

theorem EncodeKeepsFields.fdecC (w : Width) (sc : Nat) : EncodeKeepsFields.Statement (.fdecC w sc) :=
  EncodeKeepsFields.of_bounds _ (by simp +contextual [Instr.wellFormed, Instr.fields, Fields.none])

theorem EncodeKeepsFields.fcmp (w : Width) (sc : Nat) : EncodeKeepsFields.Statement (.fcmp w sc) :=
  EncodeKeepsFields.of_bounds _ (by simp +contextual [Instr.wellFormed, Instr.fields, Fields.none])

theorem EncodeKeepsFields.fclass (w : Width) (sc : Nat) : EncodeKeepsFields.Statement (.fclass w sc) :=
  EncodeKeepsFields.of_bounds _ (by simp +contextual [Instr.wellFormed, Instr.fields, Fields.none])

end Laws

end Sys2Proof
end

