-- ==== Sys2Proof/Machine/Assembler.lean ====
section
/-! DEFINITION. The one-line text form of 30_encoding.md R63 and R64. The unit has no assembler: this is the notation of the spec's
test vectors, which the host turns into commands. No step reads it. What R63 leaves open about a text is settled here and marked DESIGN
CHOICE where it is settled; log 11 lists all of it. -/

namespace Sys2Proof.Machine

/-- The mnemonics of R58 with their opcodes. -/
def mnemonics : List (String × Nat) :=
  [("ADD128", 0x01), ("SUB128", 0x02), ("CMP128", 0x03), ("SHL128", 0x04), ("SHR128", 0x05), ("MUL128", 0x06),
   ("MUL128X64", 0x07), ("DIV128BY64", 0x08), ("DIVPOW10", 0x10), ("FMUL.W", 0x20), ("FMUL.C", 0x21), ("FDIV.W", 0x22),
   ("FDIV.C", 0x23), ("RESCALE.C", 0x25), ("FROMDEC.W", 0x30), ("FROMDEC.C", 0x31)] ++
  [("TODEC", 0x32), ("FADD.W", 0x40), ("FADD.C", 0x41), ("FSUB.W", 0x42), ("FSUB.C", 0x43), ("FNEG.W", 0x44),
   ("FNEG.C", 0x45), ("FABS.W", 0x46), ("FABS.C", 0x47), ("FINC.W", 0x48), ("FINC.C", 0x49), ("FDEC.W", 0x4A),
   ("FDEC.C", 0x4B), ("FCMP", 0x4C), ("FCLASS", 0x4E)]

/-- An operand of a line: a literal, or a value of an earlier line's response, routed by the host (R63). -/
inductive AsmOperand where
  | literal (v : Int)
  | res (name : List Char)
  | aux (name : List Char)
deriving DecidableEq, Repr

/-- A line: the name of its response, its command, and its operands. -/
structure AsmLine where
  name : Option (List Char)
  command : Instr
  opa : AsmOperand
  opb : Option AsmOperand
deriving DecidableEq, Repr

/-- Cut a text at every `sep`. -/
def cutAt (sep : Char) : List Char → List (List Char)
  | [] => [[]]
  | c :: cs =>
    match cutAt sep cs with
    | [] => [[c]]
    | part :: parts => if c = sep then [] :: part :: parts else (c :: part) :: parts

/-- Take the blanks off both ends. DESIGN CHOICE (log 11): R63 does not say where blanks may stand; a blank is the space character alone. -/
def trimBlanks (cs : List Char) : List Char :=
  ((cs.dropWhile (· == ' ')).reverse.dropWhile (· == ' ')).reverse

/-- One digit of a base up to 16. DESIGN CHOICE (log 11): R63 does not define `hex-digits`; letters of either case are read. -/
def digitOf (base : Nat) (c : Char) : Option Nat :=
  let d :=
    if '0' ≤ c ∧ c ≤ '9' then c.toNat - '0'.toNat
    else if 'A' ≤ c ∧ c ≤ 'F' then c.toNat - 'A'.toNat + 10
    else if 'a' ≤ c ∧ c ≤ 'f' then c.toNat - 'a'.toNat + 10
    else base
  if d < base then some d else none

/-- Digits after those already read. -/
def numberFrom (base : Nat) : Nat → List Char → Option Nat
  | n, [] => some n
  | n, c :: cs =>
    match digitOf base c with
    | some d => numberFrom base (n * base + d) cs
    | none => none

/-- A number: at least one digit. -/
def numberOf (base : Nat) (cs : List Char) : Option Nat :=
  if cs.isEmpty then none else numberFrom base 0 cs

/-- `modename | nat` (R63, R54). -/
def modeOf (cs : List Char) : Option Nat :=
  if cs = "RNE".toList then some 0
  else if cs = "RHA".toList then some 1
  else if cs = "RDN".toList then some 2
  else if cs = "RUP".toList then some 3
  else if cs = "RTZ".toList then some 4
  else numberOf 10 cs

/-- `w=32` is 0 and `w=64` is 1 (R63). -/
def widthBitOf (cs : List Char) : Option Nat :=
  if cs = "32".toList then some 0 else if cs = "64".toList then some 1 else none

/-- A field `key=value`. -/
def fieldOf (cs : List Char) : Option (List Char × List Char) :=
  match cutAt '=' cs with
  | [key, value] => some (trimBlanks key, trimBlanks value)
  | _ => none

/-- The names of the fields that a format uses (R57). -/
def formatKeys : Format → List (List Char)
  | .A => []
  | .S => ["sh".toList]
  | .P => ["s".toList]
  | .F => ["w".toList, "rm".toList, "s".toList]
  | .R => ["w".toList, "rm".toList, "s".toList, "t".toList]
  | .X => ["w".toList, "s".toList]

/-- The number of the field `key`: zero where the format does not use it, `default` where it may be and is omitted, none where it
is missing or unreadable. DESIGN CHOICE (log 11): none too where it is given twice, of which R63 says nothing. -/
def fieldNumber (keys : List (List Char)) (given : List (List Char × List Char)) (key : String)
    (default : Option Nat) (read : List Char → Option Nat) : Option Nat :=
  if keys.contains key.toList then
    match given.filter fun kv => kv.1 == key.toList with
    | [] => default
    | [kv] => read kv.2
    | _ => none
  else some 0

/-- The fields of a line. A field may be given only if the format uses it, and every other field it uses must be written;
an omitted `rm` is RNE (R63, R64). -/
def asmFields (format : Format) (given : List (List Char × List Char)) : Option Fields :=
  let keys := formatKeys format
  if given.all fun kv => keys.contains kv.1 then do
    let w ← fieldNumber keys given "w" none widthBitOf
    let rm ← fieldNumber keys given "rm" (some 0) modeOf
    let s ← fieldNumber keys given "s" none (numberOf 10)
    let t ← fieldNumber keys given "t" none (numberOf 10)
    let sh ← fieldNumber keys given "sh" none (numberOf 10)
    return ⟨w, rm, s, t, sh⟩
  else none

/-- Whether a command reads `opb` (R58, column `opb`). -/
def readsOpb : Instr → Bool
  | .add128 | .sub128 | .cmp128 | .mul128 | .mul128x64 | .div128by64 => true
  | .shl128 _ | .shr128 _ | .divpow10 _ => false
  | .fmulW .. | .fmulC .. | .fdivW .. | .fdivC .. => true
  | .rescaleC .. | .fromdecW .. | .fromdecC .. | .todec .. => false
  | .faddW .. | .faddC .. | .fsubW .. | .fsubC .. => true
  | .fnegW .. | .fnegC .. | .fabsW .. | .fabsC .. | .fincW .. | .fincC .. | .fdecW .. | .fdecC .. => false
  | .fcmp .. => true
  | .fclass .. => false

/-- An operand (R63). -/
def asmOperand (cs : List Char) : Option AsmOperand :=
  match cs with
  | '%' :: rest =>
    match cutAt '.' rest with
    | [name, port] =>
      if port = "res".toList then some (.res name) else if port = "aux".toList then some (.aux name) else none
    | _ => none
  | '0' :: 'x' :: digits => (numberOf 16 digits).map fun n => .literal n
  | '-' :: digits => (numberOf 10 digits).map fun n => .literal (-(n : Int))
  | digits => (numberOf 10 digits).map fun n => .literal n

/-- The command of the text before the colon: a mnemonic and its fields. DESIGN CHOICE (log 11): a number that its field has no room for is
refused; R63 says nothing of it. -/
def asmCommand (cs : List Char) : Option Instr := do
  let mnemonic := cs.takeWhile (· != ' ')
  let rest := trimBlanks (cs.dropWhile (· != ' '))
  let (_, opcode) ← mnemonics.find? fun row => row.1.toList == mnemonic
  let (format, _) ← commandOf opcode Fields.none
  let given ← if rest.isEmpty then some [] else (cutAt ',' rest).mapM fieldOf
  let f ← asmFields format given
  let (_, i) ← commandOf opcode f
  if i.wellFormed then some i else none

/-- The operands of the text after the colon, as many as the command reads (R63). -/
def asmOperands (i : Instr) (cs : List Char) : Option (AsmOperand × Option AsmOperand) :=
  match (cutAt ',' cs).map trimBlanks, readsOpb i with
  | [a], false => (asmOperand a).map fun x => (x, none)
  | [a, b], true => do
    let x ← asmOperand a
    let y ← asmOperand b
    return (x, some y)
  | _, _ => none

/-- The optional name before a line (R63): `%name =`. DESIGN CHOICE (log 11): the grammar of R63 does not define `name`; it is taken to be
whatever characters stand before the `=`, without the blanks around them, so a name may be empty or hold blanks, dots or commas. No
operand can refer to a name that holds a dot or a comma (`asmOperand`, `asmOperands`). -/
def asmName (cs : List Char) : Option (List Char) × List Char :=
  match cs with
  | '%' :: rest => (some (trimBlanks (rest.takeWhile (· != '='))), trimBlanks ((rest.dropWhile (· != '=')).drop 1))
  | other => (none, other)

/-- Read one line. -/
def assembleLine (text : List Char) : Option AsmLine :=
  match cutAt ':' text with
  | [left, right] =>
    let (name, body) := asmName (trimBlanks left)
    do
      let i ← asmCommand body
      let (a, b) ← asmOperands i right
      return ⟨name, i, a, b⟩
  | _ => none

/-- The value of an operand, given the responses of the lines before, by name. `%name.res` of a response that is no OK is an error of the
script (R63). DESIGN CHOICE (log 11), where R63 is silent: when two responses carry the same name, the FIRST of them in the list is
meant; a name that no response carries is an error; `%name.aux` of a response that is no OK is an error as `%name.res` is; a literal
outside 128 bits is taken modulo `2^128`. -/
def AsmOperand.value (responses : List (List Char × Response)) : AsmOperand → Option Wide
  | .literal v => some (BitVec.ofInt 128 v)
  | .res name =>
    match responses.find? fun row => row.1 == name with
    | some (_, .ok r _) => some r
    | _ => none
  | .aux name =>
    match responses.find? fun row => row.1 == name with
    | some (_, .ok _ x) => some x
    | _ => none

/-- The command that the host issues for a line; a port the command ignores is driven with zero (R63). -/
def AsmLine.toCommand (responses : List (List Char × Response)) (line : AsmLine) : Option Command := do
  let a ← line.opa.value responses
  let b ← match line.opb with
    | some y => y.value responses
    | none => some 0
  return ⟨encode line.command, a, b⟩

end Sys2Proof.Machine
end

