-- ==== Sys2Proof/Tests/Slice0.lean ====
section
/-! SUPPORT. Tests of the model on the spec's own examples, and for each statement with hypotheses a state and operands
that meet them. Expected values are those printed in spec/95_test_vectors.md, or are worked by hand from a rule. -/

namespace Sys2Proof.Tests

open Sys2Proof Sys2Proof.Machine

/-- A unit with one command in flight. -/
def busyUnit (word : Word) (opa opb : Wide) : State := { State.reset with phase := .busy ⟨word, opa, opb⟩ }

/-- An idle unit with these events to come. -/
def idleUnit (events : List Event) : State := { State.reset with schedule := events }

/-! ### Well-formedness: a term that each check refuses -/

theorem test_wf_scale_too_large : (Instr.divpow10 64).wellFormed = false := by decide
theorem test_wf_target_scale_too_large : (Instr.rescaleC .w64 0 7 64).wellFormed = false := by decide
theorem test_wf_mode_too_large : (Instr.fmulC .w64 8 4).wellFormed = false := by decide
theorem test_wf_shift_too_large : (Instr.shl128 128).wellFormed = false := by decide
theorem test_wf_illegal_scale_is_writable : (Instr.faddC .w32 63).wellFormed = true := by decide

/-! ### Decoding: one word per command, written out in spec/95_test_vectors.md section 2 -/

theorem test_decode_add128 : decode 0x00000001#32 = .ok .add128 := by decide
theorem test_decode_sub128 : decode 0x00000002#32 = .ok .sub128 := by decide
theorem test_decode_cmp128 : decode 0x00000003#32 = .ok .cmp128 := by decide
theorem test_decode_shl128 : decode 0x7F000004#32 = .ok (.shl128 127) := by decide
theorem test_decode_shr128 : decode 0x7F000005#32 = .ok (.shr128 127) := by decide
theorem test_decode_mul128 : decode 0x00000006#32 = .ok .mul128 := by decide
theorem test_decode_mul128x64 : decode 0x00000007#32 = .ok .mul128x64 := by decide
theorem test_decode_div128by64 : decode 0x00000008#32 = .ok .div128by64 := by decide
theorem test_decode_divpow10 : decode 0x00026010#32 = .ok (.divpow10 38) := by decide
theorem test_decode_fmulW : decode 0x00012920#32 = .ok (.fmulW .w64 4 18) := by decide
theorem test_decode_fmulC : decode 0x00012921#32 = .ok (.fmulC .w64 4 18) := by decide
theorem test_decode_fdivW : decode 0x00012922#32 = .ok (.fdivW .w64 4 18) := by decide
theorem test_decode_fdivC : decode 0x00012923#32 = .ok (.fdivC .w64 4 18) := by decide
theorem test_decode_rescaleC : decode 0x00492925#32 = .ok (.rescaleC .w64 4 18 18) := by decide
theorem test_decode_fromdecW : decode 0x00012130#32 = .ok (.fromdecW .w64 18) := by decide
theorem test_decode_fromdecC : decode 0x00012131#32 = .ok (.fromdecC .w64 18) := by decide
theorem test_decode_todec : decode 0x00012132#32 = .ok (.todec .w64 18) := by decide
theorem test_decode_faddW : decode 0x00009040#32 = .ok (.faddW .w32 9) := by decide
theorem test_decode_faddC : decode 0x00009041#32 = .ok (.faddC .w32 9) := by decide
theorem test_decode_fsubW : decode 0x00009042#32 = .ok (.fsubW .w32 9) := by decide
theorem test_decode_fsubC : decode 0x00009043#32 = .ok (.fsubC .w32 9) := by decide
theorem test_decode_fnegW : decode 0x00009044#32 = .ok (.fnegW .w32 9) := by decide
theorem test_decode_fnegC : decode 0x00009045#32 = .ok (.fnegC .w32 9) := by decide
theorem test_decode_fabsW : decode 0x00009046#32 = .ok (.fabsW .w32 9) := by decide
theorem test_decode_fabsC : decode 0x00009047#32 = .ok (.fabsC .w32 9) := by decide
theorem test_decode_fincW : decode 0x00009048#32 = .ok (.fincW .w32 9) := by decide
theorem test_decode_fincC : decode 0x00009049#32 = .ok (.fincC .w32 9) := by decide
theorem test_decode_fdecW : decode 0x0000904A#32 = .ok (.fdecW .w32 9) := by decide
theorem test_decode_fdecC : decode 0x0000904B#32 = .ok (.fdecC .w32 9) := by decide
theorem test_decode_fcmp : decode 0x0000904C#32 = .ok (.fcmp .w32 9) := by decide
theorem test_decode_fclass : decode 0x0000904E#32 = .ok (.fclass .w32 9) := by decide

/-- The words above are what the encoder writes. -/
theorem test_encode_words :
    [.add128, .sub128, .cmp128, .shl128 127, .shr128 127, .mul128,
      .mul128x64, .div128by64, .divpow10 38, .fmulW .w64 4 18, .fmulC .w64 4 18, .fdivW .w64 4 18,
      .fdivC .w64 4 18, .rescaleC .w64 4 18 18, .fromdecW .w64 18, .fromdecC .w64 18, .todec .w64 18, .faddW .w32 9,
      .faddC .w32 9, .fsubW .w32 9, .fsubC .w32 9, .fnegW .w32 9, .fnegC .w32 9, .fabsW .w32 9,
      .fabsC .w32 9, .fincW .w32 9, .fincC .w32 9, .fdecW .w32 9, .fdecC .w32 9, .fcmp .w32 9,
      .fclass .w32 9].map encode =
      [0x00000001#32, 0x00000002#32, 0x00000003#32, 0x7F000004#32, 0x7F000005#32, 0x00000006#32,
        0x00000007#32, 0x00000008#32, 0x00026010#32, 0x00012920#32, 0x00012921#32, 0x00012922#32,
        0x00012923#32, 0x00492925#32, 0x00012130#32, 0x00012131#32, 0x00012132#32, 0x00009040#32,
        0x00009041#32, 0x00009042#32, 0x00009043#32, 0x00009044#32, 0x00009045#32, 0x00009046#32,
        0x00009047#32, 0x00009048#32, 0x00009049#32, 0x0000904A#32, 0x0000904B#32, 0x0000904C#32,
        0x0000904E#32] := by decide

/-! ### One step each: the vectors of spec/95_test_vectors.md section 3 -/

theorem test_add128_carries_into_upper_half :
    answerTo romTable ⟨0x00000001#32, 0xFFFFFFFFFFFFFFFF#128, 0x1#128⟩ = some (.ok 0x10000000000000000#128 0x0#128) := by decide

theorem test_add128_wraps :
    answerTo romTable ⟨0x00000001#32, 0xFFFFFFFFFFFFFFFFFFFFFFFFFFFFFFFF#128, 0xFFFFFFFFFFFFFFFFFFFFFFFFFFFFFFFF#128⟩ = some (.ok 0xFFFFFFFFFFFFFFFFFFFFFFFFFFFFFFFE#128 0x0#128) := by decide

theorem test_sub128_borrows_from_upper_half :
    answerTo romTable ⟨0x00000002#32, 0x10000000000000000#128, 0x1#128⟩ = some (.ok 0xFFFFFFFFFFFFFFFF#128 0x0#128) := by decide

theorem test_sub128_wraps :
    answerTo romTable ⟨0x00000002#32, 0x0#128, 0x1#128⟩ = some (.ok 0xFFFFFFFFFFFFFFFFFFFFFFFFFFFFFFFF#128 0x0#128) := by decide

theorem test_cmp128_less :
    answerTo romTable ⟨0x00000003#32, 0x5#128, 0x7#128⟩ = some (.ok 0x2#128 0x0#128) := by decide

theorem test_cmp128_is_unsigned :
    answerTo romTable ⟨0x00000003#32, 0xFFFFFFFFFFFFFFFFFFFFFFFFFFFFFFFF#128, 0x0#128⟩ = some (.ok 0x4#128 0x0#128) := by decide

theorem test_shl128_by_64 :
    answerTo romTable ⟨0x40000004#32, 0x123456789ABCDEFFEDCBA9876543210#128, 0x0#128⟩ = some (.ok 0xFEDCBA98765432100000000000000000#128 0x0#128) := by decide

theorem test_shl128_by_127 :
    answerTo romTable ⟨0x7F000004#32, 0x123456789ABCDEFFEDCBA9876543211#128, 0x0#128⟩ = some (.ok 0x80000000000000000000000000000000#128 0x0#128) := by decide

theorem test_shr128_by_4 :
    answerTo romTable ⟨0x04000005#32, 0x123456789ABCDEFFEDCBA9876543210#128, 0x0#128⟩ = some (.ok 0x123456789ABCDEFFEDCBA987654321#128 0x0#128) := by decide

theorem test_shr128_is_logical :
    answerTo romTable ⟨0x7F000005#32, 0xFFFFFFFFFFFFFFFFFFFFFFFFFFFFFFFF#128, 0x0#128⟩ = some (.ok 0x1#128 0x0#128) := by decide

theorem test_mul128_truncates :
    answerTo romTable ⟨0x00000006#32, 0x123456789ABCDEFFEDCBA9876543210#128, 0x10000000000000003#128⟩ = some (.ok 0x2468ACF13579BDFFC962FC962FC9630#128 0x0#128) := by decide

theorem test_mul128_exact :
    answerTo romTable ⟨0x00000006#32, 0x8AC7230489E80000#128, 0x8AC7230489E80000#128⟩ = some (.ok 0x4B3B4CA85A86C47A098A224000000000#128 0x0#128) := by decide

theorem test_mul128x64_truncates :
    answerTo romTable ⟨0x00000007#32, 0xFFFFFFFFFFFFFFFFFFFFFFFFFFFFFFFF#128, 0xFFFFFFFFFFFFFFFF#128⟩ = some (.ok 0xFFFFFFFFFFFFFFFF0000000000000001#128 0x0#128) := by decide

theorem test_mul128x64_ignores_upper_half :
    answerTo romTable ⟨0x00000007#32, 0x3#128, 0x10000000000000005#128⟩ = some (.ok 0xF#128 0x0#128) := by decide

theorem test_div128by64_quotient_and_remainder :
    answerTo romTable ⟨0x00000008#32, 0x4B3B4CA85A86C47A098A224000000000#128, 0x7#128⟩ = some (.ok 0xABF54180CEEAE5A93A604E492492492#128 0x2#128) := by decide

theorem test_div128by64_looks_at_the_low_half :
    answerTo romTable ⟨0x00000008#32, 0x0#128, 0x10000000000000000#128⟩ = some (.fault .divideByZero) := by decide

theorem test_divpow10_by_10_38 :
    answerTo romTable ⟨0x00026010#32, 0xE1B1E5F90F944D6E1C9E66C000000000#128, 0x0#128⟩ = some (.ok 0x3#128 0x0#128) := by decide

theorem test_divpow10_digits_out_of_range :
    answerTo romTable ⟨0x00027010#32, 0x1#128, 0x0#128⟩ = some (.fault .invalidScale) := by decide

theorem test_fmulW_wraps :
    answerTo romTable ⟨0x00012120#32, 0x29A2241AF62C0000#128, 0x3782DACE9D900000#128⟩ = some (.ok 0xA688906BD8B00000#128 0x0#128) := by decide

theorem test_fmulW_unknown_mode :
    answerTo romTable ⟨0x00004E20#32, 0x2710#128, 0x2710#128⟩ = some (.fault .invalidRoundingMode) := by decide

theorem test_fmulC_half_away :
    answerTo romTable ⟨0x00004321#32, 0x61A8#128, 0x1#128⟩ = some (.ok 0x3#128 0x0#128) := by decide

theorem test_fmulC_overflows_by_rounding :
    answerTo romTable ⟨0x00001021#32, 0xF#128, 0x55555555#128⟩ = some (.fault .overflow) := by decide

theorem test_fdivW_wraps :
    answerTo romTable ⟨0x00012122#32, 0x7CE66C50E2840000#128, 0xF8B0A10E470000#128⟩ = some (.ok 0xF8497915C8824925#128 0x0#128) := by decide

theorem test_fdivW_zero_divisor :
    answerTo romTable ⟨0x00002022#32, 0x5#128, 0x0#128⟩ = some (.fault .divideByZero) := by decide

theorem test_fdivC_toward_plus_infinity :
    answerTo romTable ⟨0x00004723#32, 0xFFFFFFFFFFFFB1E0#128, 0x7530#128⟩ = some (.ok 0xFFFFFFFFFFFFE5F6#128 0x0#128) := by decide

theorem test_fdivC_tie_to_even :
    answerTo romTable ⟨0x00002023#32, 0x3#128, 0x8#128⟩ = some (.ok 0x26#128 0x0#128) := by decide

theorem test_rescaleC_toward_minus_infinity :
    answerTo romTable ⟨0x00012525#32, 0x8000000000000000#128, 0x0#128⟩ = some (.ok 0xFFFFFFFFFFFFFFF6#128 0x0#128) := by decide

theorem test_rescaleC_scale_before_mode :
    answerTo romTable ⟨0x0010CE25#32, 0x5#128, 0x0#128⟩ = some (.fault .invalidScale) := by decide

theorem test_fromdecW_rounds_then_wraps :
    answerTo romTable ⟨0x00000030#32, 0xA0000FFFFFFFFFFFFFFFFFFFFFFFF#128, 0x0#128⟩ = some (.ok 0x5EF6EADF#128 0x0#128) := by decide

theorem test_fromdecW_malformed :
    answerTo romTable ⟨0x00004130#32, 0x1D0000000000000000000000000000#128, 0x0#128⟩ = some (.fault .invalidOperand) := by decide

theorem test_fromdecC_tie_to_even :
    answerTo romTable ⟨0x00000131#32, 0x8005000000000000000000000003D090#128, 0x0#128⟩ = some (.ok 0xFFFFFFFFFFFFFFFE#128 0x0#128) := by decide

theorem test_fromdecC_overflows_after_rounding :
    answerTo romTable ⟨0x00000031#32, 0x100000000000000000004FFFFFFFB#128, 0x0#128⟩ = some (.fault .overflow) := by decide

theorem test_todec_minimum :
    answerTo romTable ⟨0x00012132#32, 0x8000000000000000#128, 0x0#128⟩ = some (.ok 0x80120000000000008000000000000000#128 0x0#128) := by decide

theorem test_todec_ignores_upper_bits :
    answerTo romTable ⟨0x00004032#32, 0xDEADBEEF00003A98#128, 0x0#128⟩ = some (.ok 0x40000000000000000000000003A98#128 0x0#128) := by decide

theorem test_faddW_wraps :
    answerTo romTable ⟨0x00004040#32, 0x6AAAB8B6#128, 0x561029C3#128⟩ = some (.ok 0xC0BAE279#128 0x0#128) := by decide

theorem test_faddW_scale_out_of_range :
    answerTo romTable ⟨0x00013140#32, 0x1#128, 0x1#128⟩ = some (.fault .invalidScale) := by decide

theorem test_faddC_overflows :
    answerTo romTable ⟨0x00004041#32, 0x6AAAB8B6#128, 0x561029C3#128⟩ = some (.fault .overflow) := by decide

theorem test_faddC_ignores_upper_bits :
    answerTo romTable ⟨0x00004041#32, 0x700000005#128, 0x900000006#128⟩ = some (.ok 0xB#128 0x0#128) := by decide

theorem test_fsubW_wraps :
    answerTo romTable ⟨0x00000142#32, 0x8000000000000000#128, 0x1#128⟩ = some (.ok 0x7FFFFFFFFFFFFFFF#128 0x0#128) := by decide

theorem test_fsubC_overflows :
    answerTo romTable ⟨0x00000043#32, 0x0#128, 0x80000000#128⟩ = some (.fault .overflow) := by decide

theorem test_fsubC_in_range :
    answerTo romTable ⟨0x00004143#32, 0x219DA89#128, 0x1F602F8#128⟩ = some (.ok 0x23D791#128 0x0#128) := by decide

theorem test_fnegW_minimum :
    answerTo romTable ⟨0x00000144#32, 0x8000000000000000#128, 0x0#128⟩ = some (.ok 0x8000000000000000#128 0x0#128) := by decide

theorem test_fnegC_minimum :
    answerTo romTable ⟨0x00000045#32, 0x80000000#128, 0x0#128⟩ = some (.fault .overflow) := by decide

theorem test_fnegC_five :
    answerTo romTable ⟨0x00000045#32, 0x5#128, 0x0#128⟩ = some (.ok 0xFFFFFFFB#128 0x0#128) := by decide

theorem test_fabsW_minimum :
    answerTo romTable ⟨0x00000046#32, 0x80000000#128, 0x0#128⟩ = some (.ok 0x80000000#128 0x0#128) := by decide

theorem test_fabsC_negative :
    answerTo romTable ⟨0x00004147#32, 0xFFFFFFFFFFFC6A08#128, 0x0#128⟩ = some (.ok 0x395F8#128 0x0#128) := by decide

theorem test_fabsC_minimum :
    answerTo romTable ⟨0x00000047#32, 0x80000000#128, 0x0#128⟩ = some (.fault .overflow) := by decide

theorem test_fincW_wraps :
    answerTo romTable ⟨0x00009048#32, 0x7FFFFFFF#128, 0x0#128⟩ = some (.ok 0xBB9AC9FF#128 0x0#128) := by decide

theorem test_fincC_largest_that_fits :
    answerTo romTable ⟨0x00012149#32, 0x721F494C589BFFFF#128, 0x0#128⟩ = some (.ok 0x7FFFFFFFFFFFFFFF#128 0x0#128) := by decide

theorem test_fincC_overflows :
    answerTo romTable ⟨0x00012149#32, 0x721F494C589C0000#128, 0x0#128⟩ = some (.fault .overflow) := by decide

theorem test_fdecW_minimum_at_scale_0 :
    answerTo romTable ⟨0x0000004A#32, 0x80000000#128, 0x0#128⟩ = some (.ok 0x7FFFFFFF#128 0x0#128) := by decide

theorem test_fdecW_minimum_at_scale_4 :
    answerTo romTable ⟨0x0000404A#32, 0x80000000#128, 0x0#128⟩ = some (.ok 0x7FFFD8F0#128 0x0#128) := by decide

theorem test_fdecC_smallest_that_fits :
    answerTo romTable ⟨0x0001214B#32, 0x8DE0B6B3A7640000#128, 0x0#128⟩ = some (.ok 0x8000000000000000#128 0x0#128) := by decide

theorem test_fdecC_overflows :
    answerTo romTable ⟨0x0001214B#32, 0x8DE0B6B3A763FFFF#128, 0x0#128⟩ = some (.fault .overflow) := by decide

theorem test_fcmp_is_signed :
    answerTo romTable ⟨0x0000404C#32, 0xFFFFFFFB#128, 0x3#128⟩ = some (.ok 0x2#128 0x0#128) := by decide

theorem test_fcmp_ignores_upper_bits :
    answerTo romTable ⟨0x0000004C#32, 0xFFFFFFFF00000005#128, 0x5#128⟩ = some (.ok 0x1#128 0x0#128) := by decide

theorem test_fclass_zero :
    answerTo romTable ⟨0x0000404E#32, 0x0#128, 0x0#128⟩ = some (.ok 0x1D#128 0x0#128) := by decide

theorem test_fclass_odd_negative :
    answerTo romTable ⟨0x0001214E#32, 0x831993AF1D7C0000#128, 0x0#128⟩ = some (.ok 0x2A#128 0x0#128) := by decide

theorem test_illegal_no_wrapping_rescale :
    answerTo romTable ⟨0x00000024#32, 0x1#128, 0x2#128⟩ = some (.fault .illegalCommand) := by decide

theorem test_illegal_wins_over_scale :
    answerTo romTable ⟨0x8003F021#32, 0x1#128, 0x2#128⟩ = some (.fault .illegalCommand) := by decide

/-! ### The host's two questions, and the text form -/

theorem test_table_word : decodeTableWord 32 0x00492925 = some (.rescaleC .w64 4 18 18) := by decide
theorem test_table_word_illegal : decodeTableWord 32 0x80000001 = none := by decide

/-- The word placed by `withFetchWord` is the one the next step completes: 0 + 10^4 at scale 4 (R159). -/
theorem test_fetch_word_runs :
    step (State.reset.withFetchWord 32 0x00004049) = .next (State.reset.completed (.ok 10000 0)) := rfl

/-- Reset in flight drops the command and answers nothing (R240). -/
theorem test_reset_drops_command :
    step { busyUnit 0x00000001#32 1 2 with schedule := [.reset] } = .next State.reset := rfl

/-- R64: an omitted mode is RNE; the line is step 7 of program 4. -/
theorem test_assembler_default_mode :
    ((assembleLine "%ne = FMUL.C w=64, s=4 : 1429844538, 44545432198".toList).bind fun l => l.toCommand []) =
      some ⟨0x00004121#32, 1429844538#128, 44545432198#128⟩ := by decide

/-- R63: a field the format does not use may not be written. -/
theorem test_assembler_refuses_unused_field : assembleLine "FADD.C w=64, s=4, rm=RNE : 1, 2".toList = none := by decide

/-- R63: a negative literal is taken modulo `2^128`. -/
theorem test_assembler_negative_literal :
    ((assembleLine "FNEG.C w=32, s=0 : -1".toList).bind fun l => l.toCommand []) =
      some ⟨0x00000045#32, 0xFFFFFFFFFFFFFFFFFFFFFFFFFFFFFFFF#128, 0#128⟩ := by decide

/-! ### Witnesses: for each statement with hypotheses, values that meet all of them, and each clause at its boundary -/

theorem witness_DecodeOfEncodeIsIdentity :
    (Instr.rescaleC .w64 7 63 63).WellFormed ∧ (Instr.shl128 127).WellFormed ∧ (Instr.add128).WellFormed ∧
    (Instr.fclass .w32 63).WellFormed ∧ (Instr.fmulW .w32 7 0).WellFormed ∧ (Instr.divpow10 63).WellFormed := by decide

theorem witness_EncodeOfDecodeIsIdentity : decode 0x00FFFF25#32 = .ok (.rescaleC .w64 7 63 63) := by decide

theorem witness_WordIsOfRowExactlyByMaskAndMatch :
    0x00FFFF25#32 &&& Format.R.mask = (Instr.rescaleC .w32 0 0 0).opcode.setWidth 32 ∧
    0x01FFFF25#32 &&& Format.R.mask ≠ (Instr.rescaleC .w32 0 0 0).opcode.setWidth 32 := by decide

theorem witness_IllegalWordsAreExactlyThese :
    decode 0x80000001#32 = .error .topBitSet ∧ decode 0x0000004F#32 = .error .unknownOpcode ∧
    decode 0x00000101#32 = .error .unusedFieldNonzero := by decide

theorem witness_StepRunsDecodedCommand :
    (busyUnit 0x00000001#32 1 2).Completing ⟨0x00000001#32, 1, 2⟩ ∧ decode 0x00000001#32 = .ok .add128 ∧
    ({ busyUnit 0x00000001#32 1 2 with schedule := [.wait] } : State).Completing ⟨0x00000001#32, 1, 2⟩ ∧
    ({ busyUnit 0x00000001#32 1 2 with schedule := [.issue ⟨0, 3, 4⟩] } : State).Completing ⟨0x00000001#32, 1, 2⟩ :=
  ⟨⟨rfl, .inl rfl⟩, by decide, ⟨rfl, .inr (.inl rfl)⟩, ⟨rfl, .inr (.inr ⟨_, rfl⟩)⟩⟩

theorem witness_StepAnswersIllegalCommand :
    (busyUnit 0x00000024#32 1 2).Completing ⟨0x00000024#32, 1, 2⟩ ∧ decode 0x00000024#32 = .error .unknownOpcode :=
  ⟨⟨rfl, .inl rfl⟩, by decide⟩

theorem witness_IssueLatchesWordAndOperands :
    (idleUnit [.issue ⟨0x00000001#32, 1, 2⟩]).phase = .idle ∧
    (idleUnit [.issue ⟨0x00000001#32, 1, 2⟩]).schedule = .issue ⟨0x00000001#32, 1, 2⟩ :: [] := ⟨rfl, rfl⟩

theorem witness_IssueWaitsWhileBusy :
    ({ busyUnit 0x00000001#32 1 2 with schedule := [.issue ⟨0, 3, 4⟩] } : State).phase = .busy ⟨0x00000001#32, 1, 2⟩ ∧
    ({ busyUnit 0x00000001#32 1 2 with schedule := [.issue ⟨0, 3, 4⟩] } : State).schedule = .issue ⟨0, 3, 4⟩ :: [] :=
  ⟨rfl, rfl⟩

theorem witness_IdleUnitWaits :
    (idleUnit []).phase = .idle ∧ (idleUnit []).schedule = [] ∧
    (idleUnit [.wait, .reset]).phase = .idle ∧ (idleUnit [.wait, .reset]).schedule = .wait :: [.reset] ∧
    (idleUnit [.hold]).phase = .idle ∧ (idleUnit [.hold]).schedule = .hold :: [] := ⟨rfl, rfl, rfl, rfl, rfl, rfl⟩

theorem witness_ResetLeavesIdleAndTable :
    ({ busyUnit 0x00000001#32 1 2 with schedule := [.reset, .wait] } : State).schedule = .reset :: [.wait] := rfl

theorem witness_StepKeepsSoundness :
    (busyUnit 0x00000001#32 1 2).Sound ∧ (idleUnit [.issue ⟨0x00000001#32, 1, 2⟩]).Sound ∧
    step (busyUnit 0x00000001#32 1 2) = .next (State.reset.completed (.ok 3 0)) ∧
    step (idleUnit [.issue ⟨0x00000001#32, 1, 2⟩]) = .next (busyUnit 0x00000001#32 1 2) :=
  ⟨⟨rfl, fun _ => rfl⟩, ⟨rfl, fun _ => rfl⟩, rfl, rfl⟩

theorem witness_ResponseDependsOnCommandAndTableOnly :
    (busyUnit 0x00000001#32 1 2).Completing ⟨0x00000001#32, 1, 2⟩ ∧
    ({ busyUnit 0x00000001#32 1 2 with response := some (.ok 7 7), schedule := [.wait] } : State).Completing
      ⟨0x00000001#32, 1, 2⟩ ∧
    (busyUnit 0x00000001#32 1 2).rom =
      ({ busyUnit 0x00000001#32 1 2 with response := some (.ok 7 7), schedule := [.wait] } : State).rom :=
  ⟨⟨rfl, .inl rfl⟩, ⟨rfl, .inr (.inl rfl)⟩, rfl⟩

theorem witness_CommandsCompleteInIssueOrder :
    (idleUnit ([⟨0x00000001#32, 1, 2⟩, ⟨0x00000024#32, 1, 2⟩].map .issue)).phase = .idle ∧
    (idleUnit ([⟨0x00000001#32, 1, 2⟩, ⟨0x00000024#32, 1, 2⟩].map .issue)).schedule =
      ([⟨0x00000001#32, 1, 2⟩, ⟨0x00000024#32, 1, 2⟩] : List Command).map .issue ∧
    1 < ([⟨0x00000001#32, 1, 2⟩, ⟨0x00000024#32, 1, 2⟩] : List Command).length := ⟨rfl, rfl, by decide⟩

/-- Two holds and then a wait, a wish to issue, or nothing; and no hold at all. -/
theorem witness_CommandCompletesAfterAnyLatency :
    (∀ rest ∈ [[Event.wait], [.issue ⟨0x00000002#32, 3, 4⟩, .reset], []],
      ({ busyUnit 0x00000001#32 1 2 with schedule := [.hold, .hold] ++ rest } : State).phase = .busy ⟨0x00000001#32, 1, 2⟩ ∧
      ({ busyUnit 0x00000001#32 1 2 with schedule := [.hold, .hold] ++ rest } : State).schedule =
        List.replicate 2 .hold ++ rest ∧
      rest.head? ≠ some .hold ∧ rest.head? ≠ some .reset) ∧
    (busyUnit 0x00000001#32 1 2).schedule = List.replicate 0 .hold ++ [] ∧
    (∃ n, n + 1 = Config.lat 0x00000001#32 1 2) := ⟨by decide, rfl, _, rfl⟩

/-- What the wide integer statements and the rest ask of a state: a command in flight. -/
theorem witness_command_in_flight : (busyUnit 0x00000001#32 1 2).phase = .busy ⟨0x00000001#32, 1, 2⟩ := rfl

theorem witness_Add128CarriesAcrossHalves :
    (busyUnit 0x00000001#32 0xFFFFFFFFFFFFFFFF 1).phase = .busy ⟨0x00000001#32, 0xFFFFFFFFFFFFFFFF, 1⟩ := rfl

theorem witness_Sub128BorrowsAcrossHalves :
    (busyUnit 0x00000002#32 0x10000000000000000 1).phase = .busy ⟨0x00000002#32, 0x10000000000000000, 1⟩ := rfl

theorem witness_Cmp128ReportsUnsignedOrder :
    (busyUnit 0x00000003#32 5 7).phase = .busy ⟨0x00000003#32, 5, 7⟩ := rfl

theorem witness_ShiftsMultiplyAndDivideByPowersOfTwo :
    (0 < 128 ∧ 127 < 128) ∧ (busyUnit 0x7F000004#32 3 0).phase = .busy ⟨0x7F000004#32, 3, 0⟩ := ⟨by decide, rfl⟩

/-- Both sides of the clause on the full product: `3 * 5`, and `2^127 * 2`. -/
theorem witness_MultipliesKeepLowHalfOfProduct :
    (busyUnit 0x00000007#32 3 5).phase = .busy ⟨0x00000007#32, 3, 5⟩ ∧
    (3#128).toNat * bits (5#128) 63 0 < 2 ^ 128 ∧
    ¬ (0x80000000000000000000000000000000#128).toNat * bits (2#128) 63 0 < 2 ^ 128 := ⟨rfl, by decide, by decide⟩

theorem witness_Div128by64DividesExactly :
    (busyUnit 0x00000008#32 5 1).phase = .busy ⟨0x00000008#32, 5, 1⟩ ∧ bits (1#128) 63 0 ≠ 0 ∧
    bits (0x10000000000000000#128) 63 0 = 0 := ⟨rfl, by decide, by decide⟩

theorem witness_Divpow10IsExactForEveryDividend :
    (busyUnit 0x00026010#32 5 0).rom = romTable ∧ (busyUnit 0x00026010#32 5 0).phase = .busy ⟨0x00026010#32, 5, 0⟩ ∧
    0 ≤ 38 ∧ 38 ≤ 38 ∧ 38 < 39 := ⟨rfl, rfl, by decide, by decide, by decide⟩

theorem witness_PartialProductsGiveHighHalf : 2 ^ 128 - 1 < 2 ^ 128 ∧ 0 < 2 ^ 128 := by decide

theorem witness_TableIsTheDerivedOne : 0 < (1 : Fin 39).val ∧ 0 < (38 : Fin 39).val := by decide

theorem witness_RoundingModeNumbers : 4 < 5 := by decide

/-- A tie: 5 of 10. -/
theorem witness_NearestModesRoundToNearest :
    0 < 10 ∧ roundedQuotient 5 10 false .rne = signed false 0 ∧ 2 * ((5 : Int) - (0 : Nat) * (10 : Nat)).natAbs = 10 ∧
    roundedQuotient 5 10 false .rha = signed false 1 ∧ 2 * ((5 : Int) - (1 : Nat) * (10 : Nat)).natAbs = 10 := by decide

theorem witness_DirectedModesAreFloorCeilingTruncation :
    0 < 10 ∧ roundedQuotient 5 10 true .rdn = -1 ∧ roundedQuotient 5 10 true .rup = 0 ∧
    roundedQuotient 15 10 true .rtz = -1 := by decide

theorem witness_RoundIncConsequences :
    (0 < 10 ∧ 0 < 10) ∧ (0 < 10 ∧ 5 < 10 ∧ roundInc 3 5 10 false .rha = true ∧ roundInc 3 5 10 false .rne = true) ∧
    (0 < 3 ∧ 1 < 3 ∧ 3 % 2 = 1) ∧ (1 : Nat) ≠ 0 ∧ (0 < 1) := by decide

theorem witness_DecodeDecimalByLayout :
    decodeDec 0x801C0000FFFFFFFFFFFFFFFFFFFFFFFF#128 = some ⟨true, 28, 2 ^ 96 - 1⟩ ∧
    decodeDec 0x001D0000000000000000000000000000#128 = none ∧ decodeDec 0x00000001000000000000000000000000#128 = none ∧
    decodeDec 0x40000000000000000000000000000000#128 = none := by decide

theorem witness_DecodeOfEncodeDecimal : 28 ≤ 28 ∧ 2 ^ 96 - 1 < 2 ^ 96 := by decide

/-- The legal scales of the two widths end at 9 and at 18. -/
theorem witness_TodecEncodesSignScaleMagnitude :
    (busyUnit 0x00009032#32 0x80000000 0).phase = .busy ⟨0x00009032#32, 0x80000000, 0⟩ ∧
    9 ≤ Width.maxScale .w32 ∧ Width.maxScale .w32 < 10 ∧ 18 ≤ Width.maxScale .w64 ∧ Width.maxScale .w64 < 19 :=
  ⟨rfl, by decide⟩

/-- The operand 1.5 at scales 1 (copied), 4 (scaled up) and 0 (rounded); scale 10; and a malformed operand. -/
theorem witness_FromdecWrappingResult :
    (busyUnit 0x00004030#32 0x0001000000000000000000000000000F 0).phase =
      .busy ⟨0x00004030#32, 0x0001000000000000000000000000000F, 0⟩ ∧
    decodeDec 0x0001000000000000000000000000000F#128 = some ⟨false, 1, 15⟩ ∧
    0 ≤ Width.maxScale .w32 ∧ 1 ≤ Width.maxScale .w32 ∧ 4 ≤ Width.maxScale .w32 ∧ Width.maxScale .w32 < 10 ∧
    decodeDec 0x001D0000000000000000000000000000#128 = none := ⟨rfl, by decide⟩

/-- At scale 4, 1.5 fits 32 bits and 2147483647.5 does not. -/
theorem witness_FromdecCheckedResult :
    (busyUnit 0x00004031#32 0x0001000000000000000000000000000F 0).phase =
      .busy ⟨0x00004031#32, 0x0001000000000000000000000000000F, 0⟩ ∧
    4 ≤ Width.maxScale .w32 ∧ decodeDec 0x0001000000000000000000000000000F#128 = some ⟨false, 1, 15⟩ ∧
    Width.fits .w32 15000 = true ∧
    decodeDec 0x000100000000000000000004FFFFFFFB#128 = some ⟨false, 1, 21474836475⟩ ∧
    Width.fits .w32 21474836475000 = false ∧ Width.maxScale .w32 < 10 ∧
    decodeDec 0x001D0000000000000000000000000000#128 = none := ⟨rfl, by decide⟩

theorem witness_MalformedDecimalIsInvalidOperand :
    (busyUnit 0x00004131#32 0x001D0000000000000000000000000000 0).phase =
      .busy ⟨0x00004131#32, 0x001D0000000000000000000000000000, 0⟩ ∧
    4 ≤ Width.maxScale .w64 ∧ 28 < bits (0x001D0000000000000000000000000000#128) 119 112 ∧
    bits (0x01000000000000000000000000000000#128) 126 120 ≠ 0 ∧
    bits (0x00000001000000000000000000000000#128) 111 96 ≠ 0 ∧
    exec (.fromdecC .w64 4) (busyUnit 0x00004131#32 0x001D0000000000000000000000000000 0) =
      .next (State.reset.completed (.fault .invalidOperand)) ∧
    (State.reset.completed (.fault .invalidOperand)).response = some (.fault .invalidOperand) :=
  ⟨rfl, by decide, by decide, by decide, by decide, rfl, rfl⟩

theorem witness_DecimalRoundTripIsExact :
    9 ≤ Width.maxScale .w32 ∧
    exec (.todec .w32 9) (busyUnit 0x00009032#32 0x80000000 0) =
      .next (State.reset.completed (.ok 0x80090000000000000000000080000000 0)) ∧
    (busyUnit 0x00009031#32 0x80090000000000000000000080000000 0).phase =
      .busy ⟨0x00009031#32, 0x80090000000000000000000080000000, 0⟩ := ⟨by decide, rfl, rfl⟩

theorem witness_SimpleOperatorsWrapping :
    (busyUnit 0x00009040#32 1 2).phase = .busy ⟨0x00009040#32, 1, 2⟩ ∧ 9 ≤ Width.maxScale .w32 ∧
    Width.maxScale .w32 < 10 ∧ 18 ≤ Width.maxScale .w64 ∧ Width.maxScale .w64 < 19 := ⟨rfl, by decide⟩

/-- A sum that fits, the largest that fits, and the first that does not. -/
theorem witness_SimpleOperatorsChecked :
    (busyUnit 0x00000041#32 0x7FFFFFFF 1).phase = .busy ⟨0x00000041#32, 0x7FFFFFFF, 1⟩ ∧ 0 ≤ Width.maxScale .w32 ∧
    Width.sint .w32 0x7FFFFFFF + Width.sint .w32 0 ≤ 2 ^ (Width.bits .w32 - 1) - 1 ∧
    ¬ Width.sint .w32 0x7FFFFFFF + Width.sint .w32 1 ≤ 2 ^ (Width.bits .w32 - 1) - 1 ∧ Width.maxScale .w32 < 10 :=
  ⟨rfl, by decide⟩

/-- `2.0 * 1.0` at scale 9 fits 32 bits; `2.0 * 1.5` does not. -/
theorem witness_FmulResults :
    (busyUnit 0x00009021#32 0x77359400 0x59682F00).phase = .busy ⟨0x00009021#32, 0x77359400, 0x59682F00⟩ ∧
    9 ≤ Width.maxScale .w32 ∧ RoundingMode.ofNumber 0 = some .rne ∧ RoundingMode.ofNumber 4 = some .rtz ∧
    Width.sint .w32 0x77359400 = 2000000000 ∧ Width.sint .w32 0x59682F00 = 1500000000 ∧
    Width.fits .w32 2000000000 = true ∧ Width.fits .w32 3000000000 = false ∧ Width.maxScale .w32 < 10 ∧ 4 < 5 :=
  ⟨rfl, by decide⟩

/-- The operands at the largest scale, and the tie clauses: `5 * 1` at scale 1. -/
theorem witness_MultiplyIsCorrectlyRounded :
    ((busyUnit 0x00009021#32 3 5).phase = .busy ⟨0x00009021#32, 3, 5⟩ ∧ 9 ≤ Width.maxScale .w32 ∧
      RoundingMode.ofNumber 0 = some .rne ∧
      mulExact 2000000000 1500000000 9 .rne = mulExact (Width.sint .w32 0x77359400) (Width.sint .w32 0x59682F00) 9 .rne) ∧
    2 * |(5 : Int) * 1 - mulExact 5 1 1 .rne * 10 ^ 1| = 10 ^ 1 ∧
    2 * |(5 : Int) * 1 - mulExact 5 1 1 .rha * 10 ^ 1| = 10 ^ 1 := by decide

/-- `1.0 / 0.000000001` does not fit 32 bits; `1.0 / 1.0` does. -/
theorem witness_FdivResults :
    (busyUnit 0x00009023#32 0x3B9ACA00 1).phase = .busy ⟨0x00009023#32, 0x3B9ACA00, 1⟩ ∧ 9 ≤ Width.maxScale .w32 ∧
    RoundingMode.ofNumber 0 = some .rne ∧ Width.sint .w32 0x3B9ACA00 = 1000000000 ∧ Width.sint .w32 1 ≠ 0 ∧
    Width.fits .w32 1000000000 = true ∧ Width.fits .w32 (1000000000 * 1000000000) = false ∧ Width.maxScale .w32 < 10 ∧
    4 < 5 ∧ 4 ≤ 4 ∧ Width.sint .w32 0x100000000 = 0 := ⟨rfl, by decide⟩

/-- The operands at the largest scale, and the tie clauses: `0.01 / 0.08` at scale 2. -/
theorem witness_DivideIsCorrectlyRounded :
    ((busyUnit 0x00009023#32 0x3B9ACA00 1).phase = .busy ⟨0x00009023#32, 0x3B9ACA00, 1⟩ ∧ 9 ≤ Width.maxScale .w32 ∧
      RoundingMode.ofNumber 4 = some .rtz ∧ Width.sint .w32 1 ≠ 0 ∧
      divExact 1000000000 1 9 .rtz = divExact (Width.sint .w32 0x3B9ACA00) (Width.sint .w32 1) 9 .rtz) ∧
    (8 : Int) ≠ 0 ∧ 2 * |(1 : Int) * 10 ^ 2 - divExact 1 8 2 .rne * 8| = |8| ∧
    2 * |(1 : Int) * 10 ^ 2 - divExact 1 8 2 .rha * 8| = |8| := by decide

theorem witness_ZeroDivisorFaults :
    (busyUnit 0x00002022#32 5 0x100000000).phase = .busy ⟨0x00002022#32, 5, 0x100000000⟩ ∧ 2 ≤ Width.maxScale .w32 ∧
    0 ≤ 4 ∧ 4 ≤ 4 ∧ (0x100000000#128).toNat % 2 ^ Width.bits .w32 = 0 ∧
    (0x10000000000000000#128).toNat % 2 ^ 64 = 0 ∧
    exec .div128by64 (busyUnit 0x00000008#32 5 0) = .next (State.reset.completed (.fault .divideByZero)) ∧
    (State.reset.completed (.fault .divideByZero)).response = some (.fault .divideByZero) :=
  ⟨rfl, by decide, by decide, by decide, by decide, by decide, rfl, rfl⟩

/-- Up, where 9 fits and 10 does not; and down. -/
theorem witness_RescaleResult :
    (busyUnit 0x00480125#32 10 0).phase = .busy ⟨0x00480125#32, 10, 0⟩ ∧ 0 ≤ Width.maxScale .w64 ∧
    18 ≤ Width.maxScale .w64 ∧ RoundingMode.ofNumber 0 = some .rne ∧ Width.sint .w64 10 = 10 ∧
    Width.fits .w64 (9 * 10 ^ 18) = true ∧ Width.fits .w64 (10 * 10 ^ 18) = false ∧ 0 ≤ 18 ∧ ¬ 18 ≤ 0 ∧
    Width.maxScale .w64 < 19 ∧ 4 < 5 :=
  ⟨rfl, by decide⟩

theorem witness_RescaleDownNeverOverflows :
    (busyUnit 0x00009025#32 5 0).phase = .busy ⟨0x00009025#32, 5, 0⟩ ∧ 9 ≤ Width.maxScale .w32 ∧ 0 < 9 ∧ 4 ≤ 4 :=
  ⟨rfl, by decide⟩

theorem witness_RescaleUpThenDownIsIdentity :
    (busyUnit 0x00244025#32 0x3039 0).phase = .busy ⟨0x00244025#32, 0x3039, 0⟩ ∧
    (busyUnit 0x00109025#32 0x4994F9A0 0).phase = .busy ⟨0x00109025#32, 0x4994F9A0, 0⟩ ∧ 4 ≤ 9 ∧
    9 ≤ Width.maxScale .w32 ∧ 0 ≤ 4 ∧
    exec (.rescaleC .w32 0 4 9) (busyUnit 0x00244025#32 0x3039 0) = .next (State.reset.completed (.ok 0x4994F9A0 0)) :=
  ⟨rfl, rfl, by decide, by decide, by decide, rfl⟩

theorem witness_FcmpReportsSignedOrder :
    (busyUnit 0x0000904C#32 1 2).phase = .busy ⟨0x0000904C#32, 1, 2⟩ ∧ 9 ≤ Width.maxScale .w32 ∧
    Width.maxScale .w32 < 10 ∧ 18 ≤ Width.maxScale .w64 ∧ Width.maxScale .w64 < 19 := ⟨rfl, by decide⟩

/-- Also meets FclassHasSevenResults. -/
theorem witness_FclassReportsSixPredicates :
    (busyUnit 0x0000904E#32 1 0).phase = .busy ⟨0x0000904E#32, 1, 0⟩ ∧ 9 ≤ Width.maxScale .w32 ∧
    Width.maxScale .w32 < 10 := ⟨rfl, by decide⟩

theorem witness_FclassHasSevenResults :
    (busyUnit 0x0001214E#32 1 0).phase = .busy ⟨0x0001214E#32, 1, 0⟩ ∧ 18 ≤ Width.maxScale .w64 := ⟨rfl, by decide⟩

/-- `5 - 7` does not overflow; the second state holds the difference, or the exchanged operands. -/
theorem witness_FcmpAgreesWithSubtraction :
    (busyUnit 0x0000404C#32 5 7).phase = .busy ⟨0x0000404C#32, 5, 7⟩ ∧
    (busyUnit 0x0000404C#32 7 5).phase = .busy ⟨0x0000404C#32, 7, 5⟩ ∧
    (busyUnit 0x0000404E#32 0xFFFFFFFE 0).phase = .busy ⟨0x0000404E#32, 0xFFFFFFFE, 0⟩ ∧ 4 ≤ Width.maxScale .w32 ∧
    exec (.fsubC .w32 4) (busyUnit 0x0000404C#32 5 7) = .next (State.reset.completed (.ok 0xFFFFFFFE 0)) :=
  ⟨rfl, rfl, rfl, by decide, rfl⟩

theorem witness_ScaleOutOfRangeFaults :
    (busyUnit 0x0000A040#32 1 2).phase = .busy ⟨0x0000A040#32, 1, 2⟩ ∧ Width.maxScale .w32 < 10 ∧
    Width.maxScale .w64 < 19 ∧ ¬ Width.maxScale .w32 < 9 ∧ ¬ Width.maxScale .w64 < 18 ∧ 38 < 39 := ⟨rfl, by decide⟩

theorem witness_UnknownModeFaults :
    (busyUnit 0x00004A21#32 1 2).phase = .busy ⟨0x00004A21#32, 1, 2⟩ ∧ 9 ≤ Width.maxScale .w32 ∧ 4 < 5 ∧ 4 < 7 ∧
    4 < bits (0x00004A21#32) 11 9 ∧ decode 0x00004A21#32 = .ok (.fmulC .w32 5 4) :=
  ⟨rfl, by decide⟩

theorem witness_CommandsReportOnlyTheirFaults :
    exec .div128by64 (busyUnit 0x00000008#32 5 0) = .next (State.reset.completed (.fault .divideByZero)) ∧
    (State.reset.completed (.fault .divideByZero)).response = some (.fault .divideByZero) := ⟨rfl, rfl⟩

/-- The three clauses: Overflow, an OK of both, a fault of both. -/
theorem witness_CheckedAndWrappingFormsAgree :
    exec (.faddC .w32 0) (busyUnit 0x00000041#32 0x7FFFFFFF 1) = .next (State.reset.completed (.fault .overflow)) ∧
    exec (.faddC .w32 0) (busyUnit 0x00000041#32 1 1) = .next (State.reset.completed (.ok 2 0)) ∧
    exec (.faddC .w32 10) (busyUnit 0x0000A041#32 1 1) = .next (State.reset.completed (.fault .invalidScale)) :=
  ⟨rfl, rfl, rfl⟩

/-- Each fault of FDIV.C with every later fault condition holding too. -/
theorem witness_FirstFaultInOrderIsReported :
    answerTo romTable ⟨0x0000CC23#32, 1, 0⟩ = some (.fault .invalidScale) ∧
    answerTo romTable ⟨0x00004C23#32, 1, 0⟩ = some (.fault .invalidRoundingMode) ∧
    answerTo romTable ⟨0x00004023#32, 1, 0⟩ = some (.fault .divideByZero) := by decide

end Sys2Proof.Tests
end

/-! PROOF. The primitives of 00_scope.md R7 at every width: `sint_W`, `wrap_W` and `fits_W`, each tied to arithmetic on
the integers once, and how they compose. -/

namespace Sys2Proof
open Sys2Proof.Machine

theorem Width.bits_pos (w : Width) : 0 < w.bits := by
  cases w <;> simp [Width.bits]

/-- A fixed-point value fits its port (10_state.md R22). -/
theorem Width.bits_le_wide (w : Width) : w.bits ≤ 128 := by
  cases w <;> simp [Width.bits]

/-- The bound of the signed range as an integer, the spelling of R7. -/
theorem Width.half_cast (w : Width) : (w.half : Int) = 2 ^ (w.bits - 1) := by
  simp [Width.half]

theorem Width.two_mul_half (w : Width) : 2 * w.half = 2 ^ w.bits := by
  rw [Width.half, Nat.mul_comm, Nat.two_pow_pred_mul_two w.bits_pos]

/-- `sint_W` on the number of a port: the low `W` bits, less `2^W` when the sign bit is set. -/
theorem Width.sint_eq_ite (w : Width) (x : Wide) :
    w.sint x = if x.toNat % 2 ^ w.bits < 2 ^ (w.bits - 1) then ((x.toNat % 2 ^ w.bits : Nat) : Int)
      else ((x.toNat % 2 ^ w.bits : Nat) : Int) - 2 ^ w.bits := by
  have two_half : 2 * 2 ^ (w.bits - 1) = 2 ^ w.bits := w.two_mul_half
  have sign_test : 2 * (x.toNat % 2 ^ w.bits) < 2 ^ w.bits ↔ x.toNat % 2 ^ w.bits < 2 ^ (w.bits - 1) := by omega
  simp only [Width.sint, BitVec.toInt_eq_toNat_cond, BitVec.toNat_setWidth, sign_test, Nat.cast_pow, Nat.cast_ofNat]

/-- The zero extension to the port keeps the value of `wrap_W`. -/
theorem Width.toNat_wrap (w : Width) (v : Int) : ((w.wrap v).toNat : Int) = v % 2 ^ w.bits := by
  have modulus_pos : (0 : Int) < 2 ^ w.bits := by positivity
  rw [Width.wrap, BitVec.toNat_setWidth_of_le w.bits_le_wide, BitVec.toNat_ofInt]
  simpa using Int.emod_nonneg v modulus_pos.ne'

/-- The form sW drops the zero extension again. -/
@[simp] theorem Width.setWidth_wrap (w : Width) (v : Int) : (w.wrap v).setWidth w.bits = BitVec.ofInt w.bits v := by
  rw [Width.wrap, BitVec.setWidth_setWidth_of_le _ w.bits_le_wide, BitVec.setWidth_eq]

/-- `fits_W` is the range written in R7. -/
theorem Width.fits_iff_range (w : Width) (v : Int) :
    w.fits v = true ↔ -(2 ^ (w.bits - 1)) ≤ v ∧ v ≤ 2 ^ (w.bits - 1) - 1 := by
  rw [Width.fits_iff, w.half_cast]

/-- Every value an operand can hold lies in the range of `sint_W` in R7. -/
theorem Width.fits_sint (w : Width) (x : Wide) : w.fits (w.sint x) = true := by
  rw [w.fits_iff_range]
  exact ⟨BitVec.le_toInt _, Int.le_sub_one_of_lt BitVec.toInt_lt⟩

/-- A value in the signed range survives wrapping. -/
theorem Width.sint_wrap_of_fits {w : Width} {v : Int} (h : w.fits v = true) : w.sint (w.wrap v) = v := by
  obtain ⟨lower, upper⟩ := (w.fits_iff_range v).mp h
  rw [Width.sint, w.setWidth_wrap]
  exact BitVec.toInt_ofInt_eq_self w.bits_pos lower (Int.lt_of_le_sub_one upper)

/-- The last sentence of R7 on `wrap_W`: what is read back always fits, so only a value that fits can be read back. -/
theorem Width.sint_wrap_eq_iff_fits (w : Width) (v : Int) : w.sint (w.wrap v) = v ↔ w.fits v = true :=
  ⟨fun h => h ▸ w.fits_sint (w.wrap v), Width.sint_wrap_of_fits⟩

/-- Settles O32: the sizes are those of R5, and each primitive of R7 by its own lemma. -/
theorem fixedPointPrimitives : Obligations.FixedPointPrimitives :=
  ⟨rfl, rfl, rfl, rfl, fun w x v =>
    ⟨w.sint_eq_ite x, w.toNat_wrap v, w.fits_iff_range v, w.sint_wrap_eq_iff_fits v⟩⟩

end Sys2Proof

/-! PROOF. The step function of 10_state.md R24 and what reset leaves (R33): one rule per event of the schedule, one rule for
the completion of a command, the inversion of a step, and the statements that follow from them. -/

namespace Sys2Proof.Machine

/-! ### Completing a command -/

/-- R20: a command reads its operands and the table, and nothing else of the state; DIVPOW10 is the one that reads the table
(R100). -/
theorem exec_answers (i : Instr) (rom : Rom) (c : Command) :
    ∃ r, ∀ s : State, s.phase = .busy c → s.rom = rom → exec i s = .next (s.completed r) := by
  cases i with
  | divpow10 sc =>
    exact ⟨_, fun s hbusy hrom => by rw [exec, execDivpow10, completeWith_of_busy hbusy, hrom]⟩
  | faddW w sc | faddC w sc | fsubW w sc | fsubC w sc | fnegW w sc | fnegC w sc | fabsW w sc | fabsC w sc | fincW w sc
  | fincC w sc | fdecW w sc | fdecC w sc =>
    exact ⟨_, fun s hbusy _ => by rw [exec]; exact completeFixed_of_busy hbusy w sc _ _⟩
  | _ => exact ⟨_, fun s hbusy _ => by rw [exec]; exact completeWith_of_busy hbusy _⟩

theorem completeIllegal_of_busy {s : State} {c : Command} (h : s.phase = .busy c) :
    completeIllegal s = .next (s.completed (.fault .illegalCommand)) :=
  completeWith_of_busy h _

/-- A completion uses up nothing but a `wait` (log 1). -/
theorem State.scheduleAfter_of_head?_ne_wait {s : State} (h : s.schedule.head? ≠ some .wait) :
    s.scheduleAfter = s.schedule := by
  unfold State.scheduleAfter
  split
  next rest hwait => simp [hwait] at h
  next => rfl

theorem step_of_completing_of_decode_ok {s : State} {c : Command} {i : Instr} (h : s.Completing c)
    (hdecode : decode c.word = .ok i) : step s = exec i { s with schedule := s.scheduleAfter } := by
  simp [step, turn_of_completing h, hdecode]

theorem step_of_completing_of_decode_error {s : State} {c : Command} {e : DecodeError} (h : s.Completing c)
    (hdecode : decode c.word = .error e) : step s = completeIllegal { s with schedule := s.scheduleAfter } := by
  simp [step, turn_of_completing h, hdecode]

/-- Every state that completes a command, legal word or not, gives the same response if it has the same table. -/
theorem exists_response_of_completing (rom : Rom) (c : Command) :
    ∃ r, ∀ s : State, s.Completing c → s.rom = rom →
      step s = .next (State.completed { s with schedule := s.scheduleAfter } r) := by
  cases hdecode : decode c.word with
  | ok i =>
    obtain ⟨r, hexec⟩ := exec_answers i rom c
    exact ⟨r, fun s h hrom => (step_of_completing_of_decode_ok h hdecode).trans (hexec _ h.1 hrom)⟩
  | error e =>
    exact ⟨_, fun s h _ => (step_of_completing_of_decode_error h hdecode).trans (completeIllegal_of_busy h.1)⟩

/-- That response is the one `answerTo` names, which is the response of a state with nothing but the command and the table. -/
theorem exists_answer_of_completing (rom : Rom) (c : Command) :
    ∃ r, answerTo rom c = some r ∧ ∀ s : State, s.Completing c → s.rom = rom →
      step s = .next (State.completed { s with schedule := s.scheduleAfter } r) := by
  obtain ⟨r, hstep⟩ := exists_response_of_completing rom c
  refine ⟨r, ?_, hstep⟩
  simp [answerTo, hstep ⟨.busy c, none, rom, []⟩ ⟨rfl, .inl rfl⟩ rfl]

/-- A command in flight completes when the host makes no move or must wait with its issue (R24). -/
theorem State.completing_of_stays {s : State} {c : Command} (hbusy : s.phase = .busy c)
    (hstays : s.schedule = [] ∨ ∃ d rest, s.schedule = .issue d :: rest) : s.Completing c := by
  refine ⟨hbusy, ?_⟩
  rcases hstays with hnil | ⟨d, rest, hissue⟩
  · exact .inl hnil
  · exact .inr (.inr ⟨d, by simp [hissue]⟩)

/-! ### The other moves -/

theorem step_of_turn_none {s t : State} (h : turn s = (t, none)) : step s = .next t := by
  simp [step, h]

theorem step_of_reset {s : State} {rest : List Event} (h : s.schedule = .reset :: rest) :
    step s = .next (State.resetInput { s with schedule := rest }) :=
  step_of_turn_none (by simp [turn, h])

theorem step_of_issue {s : State} {c : Command} {rest : List Event} (hidle : s.phase = .idle)
    (h : s.schedule = .issue c :: rest) : step s = .next (State.issued { s with schedule := rest } c) :=
  step_of_turn_none (by simp [turn, hidle, h])

/-- Everything a step can do: a reset, a unit of time in which no command completes, an issue from IDLE, or the completion
of the command in flight with its own answer. -/
theorem step_cases (s : State) :
    (∃ rest, s.schedule = .reset :: rest ∧ step s = .next (State.resetInput { s with schedule := rest })) ∨
    (∃ rest, (s.schedule = .hold :: rest ∨ s.phase = .idle ∧ s.schedule = .wait :: rest ∨
        s.phase = .idle ∧ s.schedule = [] ∧ rest = []) ∧ step s = .next { s with schedule := rest }) ∨
    (∃ c rest, s.phase = .idle ∧ s.schedule = .issue c :: rest ∧
      step s = .next (State.issued { s with schedule := rest } c)) ∨
    (∃ c r, s.Completing c ∧ answerTo s.rom c = some r ∧
      step s = .next (State.completed { s with schedule := s.scheduleAfter } r)) := by
  have completes {c : Command} (h : s.Completing c) :
      ∃ c r, s.Completing c ∧ answerTo s.rom c = some r ∧
        step s = .next (State.completed { s with schedule := s.scheduleAfter } r) := by
    obtain ⟨r, hanswer, hstep⟩ := exists_answer_of_completing s.rom c
    exact ⟨c, r, h, hanswer, hstep s h rfl⟩
  rcases turn_cases s with ⟨rest, hreset, -⟩ | ⟨rest, hhold, hturn⟩ | ⟨c, rest, hidle, hissue, -⟩ |
    ⟨rest, hidle, hwait, hturn⟩ | ⟨hidle, hnil, hturn⟩ | ⟨c, rest, hbusy, hwait, -⟩ | ⟨c, hbusy, hstays, -⟩
  · exact .inl ⟨rest, hreset, step_of_reset hreset⟩
  · exact .inr (.inl ⟨rest, .inl hhold, step_of_turn_none hturn⟩)
  · exact .inr (.inr (.inl ⟨c, rest, hidle, hissue, step_of_issue hidle hissue⟩))
  · exact .inr (.inl ⟨rest, .inr (.inl ⟨hidle, hwait⟩), step_of_turn_none hturn⟩)
  · exact .inr (.inl ⟨[], .inr (.inr ⟨hidle, hnil, rfl⟩), by rw [step_of_turn_none hturn, ← hnil]⟩)
  · exact .inr (.inr (.inr (completes ⟨hbusy, .inr (.inl (by simp [hwait]))⟩)))
  · exact .inr (.inr (.inr (completes (State.completing_of_stays hbusy hstays))))

/-! ### Sound states -/

/-- With the phase IDLE only the table is asked for. -/
theorem State.sound_of_idle {s : State} (hrom : s.rom = romTable) (hidle : s.phase = .idle) : s.Sound :=
  ⟨hrom, fun hbusy => absurd hidle hbusy⟩

/-- Settles O13: a reset and a completion lead to IDLE, an issue clears the response, and waiting changes neither. -/
theorem stepKeepsSoundness : Obligations.StepKeepsSoundness := by
  intro s t hsound hnext
  obtain ⟨hrom, hresponse⟩ := hsound
  rcases step_cases s with ⟨rest, -, hstep⟩ | ⟨rest, -, hstep⟩ | ⟨c, rest, -, -, hstep⟩ | ⟨c, r, -, -, hstep⟩ <;>
    obtain rfl := Host.Outcome.next.inj (hstep.symm.trans hnext)
  · exact State.sound_of_idle hrom rfl
  · exact ⟨hrom, hresponse⟩
  · exact ⟨hrom, fun _ => rfl⟩
  · exact State.sound_of_idle hrom rfl

/-- Settles O14. -/
theorem resetIsSound : Obligations.ResetIsSound :=
  State.sound_of_idle State.reset_rom State.reset_phase

/-- Settles O12: each move of `step_cases` names the next state, and none of them touches the table. -/
theorem everyStepGoesOnAndKeepsTheTable : Obligations.EveryStepGoesOnAndKeepsTheTable := by
  intro s
  rcases step_cases s with ⟨rest, -, hstep⟩ | ⟨rest, -, hstep⟩ | ⟨c, rest, -, -, hstep⟩ | ⟨c, r, -, -, hstep⟩
  · exact ⟨_, hstep, State.resetInput_rom _⟩
  · exact ⟨_, hstep, rfl⟩
  · exact ⟨_, hstep, State.issued_rom _ c⟩
  · exact ⟨_, hstep, State.completed_rom _ r⟩

/-! ### The moves of R24, one statement each -/

/-- Settles O6. -/
theorem stepRunsDecodedCommand : Obligations.StepRunsDecodedCommand :=
  fun _ _ _ => step_of_completing_of_decode_ok

/-- Settles O8. -/
theorem issueLatchesWordAndOperands : Obligations.IssueLatchesWordAndOperands :=
  fun _ _ _ => step_of_issue

/-- Settles O11. -/
theorem resetLeavesIdleAndTable : Obligations.ResetLeavesIdleAndTable :=
  ⟨State.reset_phase, State.reset_response, State.reset_rom, fun _ _ => step_of_reset⟩

/-- Settles O15. -/
theorem responseDependsOnCommandAndTableOnly : Obligations.ResponseDependsOnCommandAndTableOnly := by
  intro s s' c h h' hrom
  obtain ⟨r, hanswer, hstep⟩ := exists_answer_of_completing s.rom c
  exact ⟨r, hanswer, hstep s h rfl, hstep s' h' hrom.symm⟩

/-- When the host makes no move or waits to issue, the command in flight completes and the schedule stays as it is (log 5). -/
theorem step_of_busy_of_stays {s : State} {c : Command} (hbusy : s.phase = .busy c)
    (hstays : s.schedule = [] ∨ ∃ d rest, s.schedule = .issue d :: rest) :
    ∃ r, answerTo s.rom c = some r ∧ step s = .next (s.completed r) := by
  obtain ⟨r, hanswer, hstep⟩ := exists_answer_of_completing s.rom c
  have hschedule : s.scheduleAfter = s.schedule :=
    State.scheduleAfter_of_head?_ne_wait (by rcases hstays with h | ⟨d, rest, h⟩ <;> simp [h])
  have hnext := hstep s (State.completing_of_stays hbusy hstays) rfl
  rw [hschedule] at hnext
  exact ⟨r, hanswer, hnext⟩

/-- Settles O9. -/
theorem issueWaitsWhileBusy : Obligations.IssueWaitsWhileBusy :=
  fun _ _ d rest hbusy hissue => step_of_busy_of_stays hbusy (.inr ⟨d, rest, hissue⟩)

/-! ### Commands one after another -/

theorem run_succ_of_step {s t : State} (h : step s = .next t) (n : Nat) :
    Host.Core.run Sys2Proof.core (n + 1) s = Host.Core.run Sys2Proof.core n t := by
  have hcore : Sys2Proof.core.step s = .next t := h
  simp only [Host.Core.run, hcore]

/-- One command of a list takes two steps: its issue and its completion. -/
theorem run_two_of_issues {s : State} {c : Command} {cs : List Command} (hidle : s.phase = .idle)
    (hissues : s.schedule = (c :: cs).map .issue) (n : Nat) :
    ∃ r, answerTo s.rom c = some r ∧
      Host.Core.run Sys2Proof.core (n + 2) s =
        Host.Core.run Sys2Proof.core n ⟨.idle, some r, s.rom, cs.map .issue⟩ := by
  have hissue := step_of_issue hidle hissues
  have hstays : cs.map Event.issue = [] ∨ ∃ d rest, cs.map Event.issue = .issue d :: rest := by
    cases cs with
    | nil => exact .inl rfl
    | cons d ds => exact .inr ⟨d, ds.map .issue, rfl⟩
  obtain ⟨r, hanswer, hcomplete⟩ := step_of_busy_of_stays (s := State.issued { s with schedule := cs.map .issue } c)
    (State.issued_phase _ c) hstays
  exact ⟨r, hanswer, (run_succ_of_step hissue (n + 1)).trans (run_succ_of_step hcomplete n)⟩

/-- Settles O16, by induction on the number of commands before the one asked for: after the first of them the unit is idle
again with the same table and one command fewer to come. -/
theorem commandsCompleteInIssueOrder : Obligations.CommandsCompleteInIssueOrder := by
  intro s cs hidle hissues k h
  induction k generalizing s cs with
  | zero =>
    cases cs with
    | nil => cases h
    | cons c cs => exact run_two_of_issues hidle hissues 0
  | succ k ih =>
    cases cs with
    | nil => cases h
    | cons c cs =>
      obtain ⟨_, -, hfirst⟩ := run_two_of_issues hidle hissues (2 * (k + 1))
      obtain ⟨r, hanswer, hrest⟩ := ih ⟨.idle, _, s.rom, cs.map .issue⟩ cs rfl rfl (Nat.lt_of_succ_lt_succ h)
      exact ⟨r, hanswer, hfirst.trans hrest⟩

end Sys2Proof.Machine

/-! PROOF. The encoding of 30_encoding.md: a word is its bit 31, its opcode and its fields (R51); the opcode map of R58 read
in both directions; what `decode` accepts and what it turns away (R57, R59, R60); and the statements that follow. -/

namespace Sys2Proof
open Sys2Proof.Machine

/-! ### A word and its fields -/

/-- Each number fits its place in the word (R51). -/
def Fields.InRange (f : Fields) : Prop :=
  f.w < 2 ∧ f.rm < 8 ∧ f.s < 64 ∧ f.t < 64 ∧ f.sh < 128

theorem bits_lt {n : Nat} (v : BitVec n) (hi lo : Nat) : bits v hi lo < 2 ^ (hi - lo + 1) :=
  (v.extractLsb hi lo).isLt

theorem fieldsOf_inRange (c : Word) : (fieldsOf c).InRange :=
  ⟨bits_lt c 8 8, bits_lt c 11 9, bits_lt c 17 12, bits_lt c 23 18, bits_lt c 30 24⟩

/-- The parts of R51 cover all 32 bits. -/
theorem word_toNat (c : Word) :
    c.toNat = bits c 7 0 + 256 * (fieldsOf c).w + 512 * (fieldsOf c).rm + 4096 * (fieldsOf c).s +
      262144 * (fieldsOf c).t + 16777216 * (fieldsOf c).sh + 2147483648 * bits c 31 31 := by
  have hc := c.isLt
  simp only [fieldsOf, bits_eq]
  omega

theorem word_ext {c d : Word} (htop : bits c 31 31 = bits d 31 31) (hop : bits c 7 0 = bits d 7 0)
    (hfields : fieldsOf c = fieldsOf d) : c = d := by
  apply BitVec.eq_of_toNat_eq
  rw [word_toNat c, word_toNat d, htop, hop, hfields]

/-- A command can be written exactly when the numbers it puts into its fields fit there. -/
theorem Instr.wellFormed_iff_fields_inRange (i : Instr) : i.WellFormed ↔ i.fields.InRange := by
  cases i <;> simp [Instr.WellFormed, Instr.wellFormed, Instr.fields, Fields.none, Fields.InRange, and_assoc]

/-- The word of a well-formed command, part by part. -/
theorem encode_parts {i : Instr} (h : i.WellFormed) :
    bits (encode i) 31 31 = 0 ∧ bits (encode i) 7 0 = i.opcode.toNat ∧ fieldsOf (encode i) = i.fields := by
  obtain ⟨hw, hrm, hs, ht, hsh⟩ := i.wellFormed_iff_fields_inRange.mp h
  exact packWord_fields i.opcode i.fields hw hrm hs ht hsh

/-! ### The opcode map -/

theorem Width.toBit_ofBit {n : Nat} (h : n < 2) : (Width.ofBit n).toBit = n := by
  obtain rfl | rfl : n = 0 ∨ n = 1 := by omega
  · rfl
  · rfl

/-- R58: the opcode of a row finds a command of that row's format, whatever the fields. -/
theorem exists_commandOf_opcode (row : Instr) (f : Fields) : ∃ i, commandOf row.opcode.toNat f = some (row.format, i) := by
  cases row <;> exact ⟨_, rfl⟩

/-- The map gives a command back from its opcode and its own fields. -/
theorem commandOf_opcode_fields (i : Instr) : commandOf i.opcode.toNat i.fields = some (i.format, i) := by
  cases i <;> simp [commandOf, Instr.opcode, Instr.format, Instr.fields]

/-- A command leaves the fields that its format does not use at zero. -/
theorem unusedZero_fields (i : Instr) : i.format.unusedZero i.fields = true := by
  cases i <;> rfl

/-- What the map gives has the opcode it was found by and the format of its row. -/
theorem opcode_format_of_commandOf {n : Nat} {f : Fields} {format : Format} {i : Instr}
    (h : commandOf n f = some (format, i)) : i.opcode.toNat = n ∧ i.format = format := by
  unfold commandOf at h
  split at h <;> cases h <;> exact ⟨rfl, rfl⟩

/-- It takes over every field its format uses, so all of them when the others are zero. -/
theorem fields_of_commandOf {n : Nat} {f : Fields} {format : Format} {i : Instr} (hw : f.w < 2)
    (h : commandOf n f = some (format, i)) (hunused : format.unusedZero f = true) : i.fields = f := by
  obtain ⟨w, rm, s, t, sh⟩ := f
  unfold commandOf at h
  split at h <;> cases h <;>
    simp_all [Format.unusedZero, Instr.fields, Fields.none, Width.toBit_ofBit]

/-- Commands with the same opcode have the same format. -/
theorem format_eq_of_opcode_eq {i j : Instr} (h : i.opcode = j.opcode) : i.format = j.format := by
  have hi := commandOf_opcode_fields i
  obtain ⟨k, hj⟩ := exists_commandOf_opcode j i.fields
  rw [h, hj] at hi
  simp_all

/-! ### What `decode` accepts -/

theorem decode_eq_ok_iff_commandOf (c : Word) (i : Instr) :
    decode c = .ok i ↔ bits c 31 31 = 0 ∧
      ∃ format, commandOf (bits c 7 0) (fieldsOf c) = some (format, i) ∧ format.unusedZero (fieldsOf c) = true := by
  unfold decode
  split
  next htop => simp [htop]
  next htop =>
    split
    next hnone => simp [hnone]
    next format j hsome =>
      split <;> simp_all

/-- R51, R59: a word decodes to `i` exactly when bit 31 is zero and its other parts are the opcode and the fields of `i`. -/
theorem decode_eq_ok_iff_parts (c : Word) (i : Instr) :
    decode c = .ok i ↔ bits c 31 31 = 0 ∧ bits c 7 0 = i.opcode.toNat ∧ fieldsOf c = i.fields := by
  rw [decode_eq_ok_iff_commandOf]
  constructor
  · rintro ⟨htop, format, hcommand, hunused⟩
    obtain ⟨hopcode, -⟩ := opcode_format_of_commandOf hcommand
    have hfields := fields_of_commandOf (fieldsOf_inRange c).1 hcommand hunused
    exact ⟨htop, hopcode.symm, hfields.symm⟩
  · rintro ⟨htop, hopcode, hfields⟩
    rw [hopcode, hfields]
    exact ⟨htop, i.format, commandOf_opcode_fields i, unusedZero_fields i⟩

/-- A word decodes to a command of a row exactly when it has the row's opcode, and bit 31 and the fields that the row's
format does not use are zero. -/
theorem exists_decode_eq_ok_iff_row (c : Word) (row : Instr) :
    (∃ i, decode c = .ok i ∧ i.opcode = row.opcode ∧ i.format = row.format) ↔
      bits c 31 31 = 0 ∧ bits c 7 0 = row.opcode.toNat ∧ row.format.unusedZero (fieldsOf c) = true := by
  constructor
  · rintro ⟨i, hdecode, hopcode, hformat⟩
    obtain ⟨htop, hc, hfields⟩ := (decode_eq_ok_iff_parts c i).mp hdecode
    rw [hc, hfields, ← hopcode, ← hformat]
    exact ⟨htop, rfl, unusedZero_fields i⟩
  · rintro ⟨htop, hc, hunused⟩
    obtain ⟨i, hcommand⟩ := exists_commandOf_opcode row (fieldsOf c)
    obtain ⟨hopcode, hformat⟩ := opcode_format_of_commandOf hcommand
    rw [← hc] at hcommand
    exact ⟨i, (decode_eq_ok_iff_commandOf c i).mpr ⟨htop, row.format, hcommand, hunused⟩,
      BitVec.eq_of_toNat_eq hopcode, hformat⟩

/-- Settles O1. -/
theorem decodeOfEncodeIsIdentity : Obligations.DecodeOfEncodeIsIdentity :=
  fun i hwf => (decode_eq_ok_iff_parts (encode i) i).mpr (encode_parts hwf)

/-- Settles O2: the fields of `i` are those of the word, so they fit their places, and the word packed from them has the same
parts. -/
theorem encodeOfDecodeIsIdentity : Obligations.EncodeOfDecodeIsIdentity := by
  intro c i hdecode
  obtain ⟨htop, hopcode, hfields⟩ := (decode_eq_ok_iff_parts c i).mp hdecode
  have hwf : i.WellFormed := i.wellFormed_iff_fields_inRange.mpr (hfields ▸ fieldsOf_inRange c)
  obtain ⟨htop', hopcode', hfields'⟩ := encode_parts hwf
  exact ⟨hwf, word_ext (htop'.trans htop.symm) (hopcode'.trans hopcode.symm) (hfields'.trans hfields.symm)⟩

/-! ### The masks -/

/-- A mask with ones at a field keeps the field. -/
theorem bits_and_of_ones {n : Nat} (v : BitVec n) {m : BitVec n} {hi lo : Nat}
    (h : bits m hi lo = 2 ^ (hi - lo + 1) - 1) : bits (v &&& m) hi lo = bits v hi lo := by
  unfold bits at *
  rw [BitVec.extractLsb_and, BitVec.toNat_and, h, Nat.and_two_pow_sub_one_of_lt_two_pow (BitVec.isLt _)]

/-- A mask with zeros at a field clears the field. -/
theorem bits_and_of_zeros {n : Nat} (v : BitVec n) {m : BitVec n} {hi lo : Nat} (h : bits m hi lo = 0) :
    bits (v &&& m) hi lo = 0 := by
  unfold bits at *
  rw [BitVec.extractLsb_and, BitVec.toNat_and, h, Nat.and_zero]

/-- Every mask keeps bit 31 (R57). -/
theorem bits_top_and_mask (c : Word) (format : Format) : bits (c &&& format.mask) 31 31 = bits c 31 31 :=
  bits_and_of_ones c (by cases format <;> decide)

/-- Every mask keeps the opcode (R57). -/
theorem bits_opcode_and_mask (c : Word) (format : Format) : bits (c &&& format.mask) 7 0 = bits c 7 0 :=
  bits_and_of_ones c (by cases format <;> decide)

/-- A mask has ones at the fields that its format does not use and zeros at the others (R57). -/
theorem fieldsOf_and_mask_eq_none_iff (c : Word) (format : Format) :
    fieldsOf (c &&& format.mask) = Fields.none ↔ format.unusedZero (fieldsOf c) = true := by
  cases format <;>
    simp (disch := decide) [fieldsOf, Fields.none, Format.unusedZero, bits_and_of_ones, bits_and_of_zeros, and_assoc]

/-- The `match` of R57, the opcode number zero-extended to 32 bits: every other part is zero. -/
theorem zeroExtended_opcode_parts (op : BitVec 8) :
    bits (op.setWidth 32) 31 31 = 0 ∧ bits (op.setWidth 32) 7 0 = op.toNat ∧
      fieldsOf (op.setWidth 32) = Fields.none := by
  have hop := op.isLt
  simp only [fieldsOf, Fields.none, bits_eq, BitVec.toNat_setWidth, Fields.mk.injEq]
  omega

/-- `c AND mask = match` of R57, part by part. -/
theorem and_mask_eq_opcode_iff (c : Word) (format : Format) (op : BitVec 8) :
    c &&& format.mask = op.setWidth 32 ↔
      bits c 31 31 = 0 ∧ bits c 7 0 = op.toNat ∧ format.unusedZero (fieldsOf c) = true := by
  obtain ⟨htop, hop, hfields⟩ := zeroExtended_opcode_parts op
  rw [← bits_top_and_mask c format, ← bits_opcode_and_mask c format, ← fieldsOf_and_mask_eq_none_iff c format]
  constructor
  · intro h
    rw [h]
    exact ⟨htop, hop, hfields⟩
  · rintro ⟨htop', hop', hfields'⟩
    exact word_ext (htop'.trans htop.symm) (hop'.trans hop.symm) (hfields'.trans hfields.symm)

/-- Settles O3: both sides ask for the opcode of the row with bit 31 and the unused fields zero. -/
theorem wordIsOfRowExactlyByMaskAndMatch : Obligations.WordIsOfRowExactlyByMaskAndMatch :=
  ⟨rfl, rfl, rfl, rfl, rfl, rfl, fun c row =>
    (and_mask_eq_opcode_iff c row.format row.opcode).trans (exists_decode_eq_ok_iff_row c row).symm⟩

/-! ### Illegal words -/

/-- R60: what is not decoded is turned away for one of three reasons; bit 31 holds 0 or 1, and a legal word fixes the row. -/
theorem exists_decode_eq_error_iff (c : Word) :
    (∃ e, decode c = .error e) ↔
      bits c 31 31 = 1 ∨ (∀ i : Instr, i.opcode.toNat ≠ bits c 7 0) ∨
        ∃ i : Instr, i.opcode.toNat = bits c 7 0 ∧ i.format.unusedZero (fieldsOf c) = false := by
  constructor
  · rintro ⟨e, herror⟩
    by_contra! hlegal
    obtain ⟨htop, ⟨row, hopcode⟩, hunused⟩ := hlegal
    have htop' : bits c 31 31 = 0 := by have := bits_lt c 31 31; omega
    obtain ⟨i, hok, -⟩ := (exists_decode_eq_ok_iff_row c row).mpr
      ⟨htop', hopcode.symm, Bool.eq_true_of_not_eq_false (hunused row hopcode)⟩
    rw [herror] at hok
    cases hok
  · intro hreason
    cases hdecode : decode c with
    | error e => exact ⟨e, rfl⟩
    | ok i =>
      obtain ⟨htop, hopcode, hunused⟩ := (exists_decode_eq_ok_iff_row c i).mp ⟨i, hdecode, rfl, rfl⟩
      rcases hreason with htop' | hunlisted | ⟨j, hj, hnonzero⟩
      · exact absurd (htop.symm.trans htop') Nat.zero_ne_one
      · exact absurd hopcode.symm (hunlisted i)
      · have hsame : j.opcode = i.opcode := BitVec.eq_of_toNat_eq (hj.trans hopcode)
        rw [format_eq_of_opcode_eq hsame, hunused] at hnonzero
        cases hnonzero

/-- R216: an illegal word is answered so for any operands and any table. -/
theorem answerTo_of_decode_error {c : Command} {e : DecodeError} (h : decode c.word = .error e) (rom : Rom) :
    answerTo rom c = some (.fault .illegalCommand) := by
  have hstep := step_of_completing_of_decode_error (s := ⟨.busy c, none, rom, []⟩) ⟨rfl, .inl rfl⟩ h
  rw [completeIllegal_of_busy rfl] at hstep
  simp [answerTo, hstep]

/-- Settles O4. -/
theorem illegalWordsAreExactlyThese : Obligations.IllegalWordsAreExactlyThese :=
  ⟨exists_decode_eq_error_iff, ⟨.unknownOpcode, rfl⟩, ⟨.topBitSet, rfl⟩, ⟨.unknownOpcode, rfl⟩,
    fun c opa opb rom ⟨_, herror⟩ => answerTo_of_decode_error (c := ⟨c, opa, opb⟩) herror rom⟩

/-! ### Numbers written out -/

/-- Settles O5: the decoder evaluated on each of the fifteen words. -/
theorem workedEncodingsDecode : Obligations.WorkedEncodingsDecode :=
  ⟨rfl, rfl, rfl, rfl, rfl, rfl, rfl, rfl, rfl, rfl, rfl, rfl, rfl, rfl, rfl⟩

/-- Settles O27. -/
theorem roundingModeNumbers : Obligations.RoundingModeNumbers :=
  ⟨rfl, rfl, rfl, rfl, rfl, fun _ => RoundingMode.ofNumber_eq_none.mpr⟩

end Sys2Proof

/-! PROOF. The wide integer commands of 40_wide_alu.md: the two halves of a port (R80), the response of each command, and the
statements about sums, differences, the unsigned order, shifts, products and the quotient. -/

namespace Sys2Proof.Machine

/-! ### The two halves of a wide integer -/

/-- R80: the lower half is the value modulo `2^64`. -/
theorem bits_low_eq_mod (x : Wide) : bits x 63 0 = x.toNat % 2 ^ 64 := by
  rw [bits_eq, Nat.pow_zero, Nat.div_one]

/-- R80: the upper half counts the multiples of `2^64`. -/
theorem bits_high_eq_div (x : Wide) : bits x 127 64 = x.toNat / 2 ^ 64 := by
  rw [bits_eq]
  exact Nat.mod_eq_of_lt (Nat.div_lt_of_lt_mul x.isLt)

theorem toNat_eq_halves (x : Wide) : x.toNat = 2 ^ 64 * bits x 127 64 + bits x 63 0 := by
  rw [bits_low_eq_mod, bits_high_eq_div, Nat.div_add_mod]

/-- The form u64 is the lower half of its port (R22). -/
theorem toNat_operandU64 (x : Wide) : (operandU64 x).toNat = bits x 63 0 := by
  rw [operandU64, BitVec.toNat_setWidth, bits_low_eq_mod]

/-- It keeps its value when it is extended to 128 bits again (R87, R88). -/
theorem toNat_setWidth_operandU64 (x : Wide) : ((operandU64 x).setWidth 128).toNat = bits x 63 0 := by
  rw [BitVec.toNat_setWidth_of_le (by decide), toNat_operandU64]

theorem toNat_mul_operandU64 (x y : Wide) :
    (x * (operandU64 y).setWidth 128).toNat = x.toNat * bits y 63 0 % 2 ^ 128 := by
  rw [BitVec.toNat_mul, toNat_setWidth_operandU64]

theorem toNat_div_operandU64 (x y : Wide) :
    (x / (operandU64 y).setWidth 128).toNat = x.toNat / bits y 63 0 := by
  rw [BitVec.toNat_udiv, toNat_setWidth_operandU64]

theorem toNat_mod_operandU64 (x y : Wide) :
    (x % (operandU64 y).setWidth 128).toNat = x.toNat % bits y 63 0 := by
  rw [BitVec.toNat_umod, toNat_setWidth_operandU64]

theorem bits_low_add (x y : Wide) : bits (x + y) 63 0 = (bits x 63 0 + bits y 63 0) % 2 ^ 64 := by
  simp only [bits_low_eq_mod, BitVec.toNat_add]
  omega

/-- R81: the upper half of a sum takes the carry out of bit 63. -/
theorem bits_high_add (x y : Wide) :
    bits (x + y) 127 64 =
      (bits x 127 64 + bits y 127 64 + (bits x 63 0 + bits y 63 0) / 2 ^ 64) % 2 ^ 64 := by
  simp only [bits_low_eq_mod, bits_high_eq_div, BitVec.toNat_add]
  omega

/-- A wide difference on the integers: what is below zero wraps (R82). -/
theorem toNat_sub_eq_emod (x y : Wide) : ((x - y).toNat : Int) = ((x.toNat : Int) - y.toNat) % 2 ^ 128 := by
  rw [BitVec.toNat_sub]
  omega

theorem bits_low_sub (x y : Wide) : (bits (x - y) 63 0 : Int) = ((bits x 63 0 : Int) - bits y 63 0) % 2 ^ 64 := by
  have hsub := toNat_sub_eq_emod x y
  simp only [bits_low_eq_mod]
  omega

/-- R82: the upper half of a difference gives the borrow when the lower half has too little. -/
theorem bits_high_sub (x y : Wide) :
    (bits (x - y) 127 64 : Int) =
      ((bits x 127 64 : Int) - bits y 127 64 - if bits x 63 0 < bits y 63 0 then 1 else 0) % 2 ^ 64 := by
  have hsub := toNat_sub_eq_emod x y
  simp only [bits_low_eq_mod, bits_high_eq_div]
  split <;> omega

/-- R83: the upper halves decide the order unless they are equal, then the lower halves. -/
theorem toNat_lt_iff_halves (x y : Wide) :
    x.toNat < y.toNat ↔
      bits x 127 64 < bits y 127 64 ∨ bits x 127 64 = bits y 127 64 ∧ bits x 63 0 < bits y 63 0 := by
  have hx := bits_lt x 63 0
  have hy := bits_lt y 63 0
  rw [toNat_eq_halves x, toNat_eq_halves y]
  omega

/-! ### The three bits of a comparison -/

@[simp] theorem compareBits_eq_bit : compareBits true false false = 1 := rfl
@[simp] theorem compareBits_lt_bit : compareBits false true false = 2 := rfl
@[simp] theorem compareBits_gt_bit : compareBits false false true = 4 := rfl

/-- In a linear order exactly one of EQ, LT and GT holds, so the result tells which (R83). -/
theorem compareBits_order {α : Type} [LinearOrder α] {a b : α} {res : Wide}
    (hres : res = compareBits (decide (a = b)) (decide (a < b)) (decide (b < a))) :
    (res = 1 ↔ a = b) ∧ (res = 2 ↔ a < b) ∧ (res = 4 ↔ b < a) ∧ (res = 1 ∨ res = 2 ∨ res = 4) := by
  subst hres
  rcases lt_trichotomy a b with hlt | rfl | hgt
  · simp [hlt, hlt.ne, hlt.not_gt]
  · simp
  · simp [hgt, hgt.ne', hgt.not_gt]

/-! ### The response of each command -/

section Responses

variable {s : State} {c : Command}

theorem exec_add128_of_busy (h : s.phase = .busy c) :
    exec .add128 s = .next (s.completed (.ok (c.opa + c.opb) 0)) := by
  rw [exec, execAdd128, completeWith_of_busy h, respond_eq]

theorem exec_sub128_of_busy (h : s.phase = .busy c) :
    exec .sub128 s = .next (s.completed (.ok (c.opa - c.opb) 0)) := by
  rw [exec, execSub128, completeWith_of_busy h, respond_eq]

/-- Equality of ports is equality of their values, so CMP128 compares numbers throughout. -/
theorem exec_cmp128_of_busy (h : s.phase = .busy c) :
    exec .cmp128 s = .next (s.completed (.ok (compareBits (decide (c.opa.toNat = c.opb.toNat))
      (decide (c.opa.toNat < c.opb.toNat)) (decide (c.opb.toNat < c.opa.toNat))) 0)) := by
  have hbeq : (c.opa == c.opb) = decide (c.opa.toNat = c.opb.toNat) := by
    simp [BitVec.toNat_inj, beq_eq_decide]
  rw [exec, execCmp128, completeWith_of_busy h, hbeq, respond_eq]

theorem exec_shl128_of_busy (h : s.phase = .busy c) (sh : Nat) :
    exec (.shl128 sh) s = .next (s.completed (.ok (c.opa <<< sh) 0)) := by
  rw [exec, execShl128, completeWith_of_busy h, respond_eq]

theorem exec_shr128_of_busy (h : s.phase = .busy c) (sh : Nat) :
    exec (.shr128 sh) s = .next (s.completed (.ok (c.opa >>> sh) 0)) := by
  rw [exec, execShr128, completeWith_of_busy h, respond_eq]

theorem exec_mul128_of_busy (h : s.phase = .busy c) :
    exec .mul128 s = .next (s.completed (.ok (c.opa * c.opb) 0)) := by
  rw [exec, execMul128, completeWith_of_busy h, respond_eq]

theorem exec_mul128x64_of_busy (h : s.phase = .busy c) :
    exec .mul128x64 s = .next (s.completed (.ok (c.opa * (operandU64 c.opb).setWidth 128) 0)) := by
  rw [exec, execMul128x64, completeWith_of_busy h, respond_eq]

/-- The divisor is tested on the lower half of `opb` alone (R88). -/
theorem exec_div128by64_of_busy (h : s.phase = .busy c) :
    exec .div128by64 s = .next (s.completed (checkDivisor (decide (bits c.opb 63 0 = 0))
      (.ok (c.opa / (operandU64 c.opb).setWidth 128) (c.opa % (operandU64 c.opb).setWidth 128)))) := by
  have hzero : (operandU64 c.opb == 0) = decide (bits c.opb 63 0 = 0) := by
    rw [← toNat_operandU64, beq_eq_decide, decide_eq_decide]
    exact BitVec.toNat_inj.symm
  simp only [exec, execDiv128by64, completeWith_of_busy h, hzero, respond_eq]

end Responses

/-! ### The statements -/

/-- Settles O18. -/
theorem add128CarriesAcrossHalves : Obligations.Add128CarriesAcrossHalves :=
  ⟨rfl, rfl, fun _ c hbusy => ⟨c.opa + c.opb, exec_add128_of_busy hbusy, BitVec.toNat_add _ _,
    bits_low_add c.opa c.opb, bits_high_add c.opa c.opb⟩⟩

/-- Settles O19. -/
theorem sub128BorrowsAcrossHalves : Obligations.Sub128BorrowsAcrossHalves :=
  ⟨rfl, rfl, fun _ c hbusy => ⟨c.opa - c.opb, exec_sub128_of_busy hbusy, toNat_sub_eq_emod c.opa c.opb,
    bits_low_sub c.opa c.opb, bits_high_sub c.opa c.opb⟩⟩

/-- Settles O20: the order of the values is the linear order of the numbers, and LT is read off the halves. -/
theorem cmp128ReportsUnsignedOrder : Obligations.Cmp128ReportsUnsignedOrder := by
  refine ⟨rfl, rfl, fun s c hbusy => ⟨_, exec_cmp128_of_busy hbusy, ?_⟩⟩
  obtain ⟨heq, hlt, hgt, hone⟩ := compareBits_order (a := c.opa.toNat) (b := c.opb.toNat) rfl
  exact ⟨heq.trans BitVec.toNat_inj, hlt, hgt, hone, hlt.trans (toNat_lt_iff_halves c.opa c.opb)⟩

/-- Settles O21: every amount goes to the same two meanings, so the bound on it is not needed. -/
theorem shiftsMultiplyAndDivideByPowersOfTwo : Obligations.ShiftsMultiplyAndDivideByPowersOfTwo := by
  refine fun sh _ => ⟨rfl, rfl, rfl, rfl, fun s c hbusy => ⟨⟨_, exec_shl128_of_busy hbusy sh, ?_⟩,
    ⟨_, exec_shr128_of_busy hbusy sh, ?_⟩⟩⟩
  · rw [BitVec.toNat_shiftLeft, Nat.shiftLeft_eq]
  · rw [BitVec.toNat_ushiftRight, Nat.shiftRight_eq_div_pow]

/-- Settles O22: a product modulo `2^128` is the product itself exactly when that is below `2^128`. -/
theorem multipliesKeepLowHalfOfProduct : Obligations.MultipliesKeepLowHalfOfProduct := by
  refine ⟨rfl, rfl, rfl, rfl, fun s c hbusy => ⟨⟨_, exec_mul128_of_busy hbusy, BitVec.toNat_mul _ _⟩,
    ⟨_, exec_mul128x64_of_busy hbusy, toNat_mul_operandU64 c.opa c.opb, ?_⟩⟩⟩
  rw [toNat_mul_operandU64]
  exact Nat.mod_eq_iff_lt (by decide)

/-- Settles O23, one case for each answer of the divisor check. -/
theorem div128by64DividesExactly : Obligations.Div128by64DividesExactly := by
  refine ⟨rfl, rfl, fun s c hbusy => ⟨fun hne => ?_, fun hzero => ?_⟩⟩
  · have hexec := exec_div128by64_of_busy hbusy
    rw [decide_eq_false hne, checkDivisor_false] at hexec
    refine ⟨_, _, hexec, toNat_div_operandU64 _ _, toNat_mod_operandU64 _ _, ?_, ?_⟩
    · rw [toNat_div_operandU64, toNat_mod_operandU64, Nat.div_add_mod']
    · rw [toNat_mod_operandU64]
      exact Nat.mod_lt _ (Nat.pos_of_ne_zero hne)
  · rw [exec_div128by64_of_busy hbusy, decide_eq_true hzero, checkDivisor_true]

end Sys2Proof.Machine

/-! PROOF. The power-of-ten divider of 41_magic_divider.md: the four partial products are the high half of the product (R104),
the table is the one derived in R105, and the argument of R105 that such a table makes every quotient exact. -/

namespace Sys2Proof.Machine

/-! ### The widening multiply (R104) -/

/-- Adding the columns of a product with a carry out of the middle one, in base `2^64`: nothing below `2^128` is lost. -/
theorem add_columns_eq_div (hh lh hl ll : Nat) :
    hh + lh / 2 ^ 64 + hl / 2 ^ 64 + (ll / 2 ^ 64 + lh % 2 ^ 64 + hl % 2 ^ 64) / 2 ^ 64 =
      (hh * 2 ^ 128 + (lh + hl) * 2 ^ 64 + ll) / 2 ^ 128 := by
  omega

/-- The expansion of R104: `t * magic = HH * 2^128 + (LH + HL) * 2^64 + LL`. -/
theorem mul_eq_partialProducts (t magic : Nat) :
    t * magic = t / 2 ^ 64 * (magic / 2 ^ 64) * 2 ^ 128 +
      (t % 2 ^ 64 * (magic / 2 ^ 64) + t / 2 ^ 64 * (magic % 2 ^ 64)) * 2 ^ 64 + t % 2 ^ 64 * (magic % 2 ^ 64) := by
  conv_lhs => rw [← Nat.div_add_mod t (2 ^ 64), ← Nat.div_add_mod magic (2 ^ 64)]
  ring

/-- The bound of 128 bits on the factors is needed only for the result to fit, not for its value. -/
theorem mulHigh_eq_div (t magic : Nat) : mulHigh t magic = t * magic / 2 ^ 128 := by
  rw [mul_eq_partialProducts, ← add_columns_eq_div, mulHigh]

/-- Settles O25. -/
theorem partialProductsGiveHighHalf : Obligations.PartialProductsGiveHighHalf := by
  intro t magic ht hmagic
  have hprod : t * magic < 2 ^ 128 * 2 ^ 128 := Nat.mul_lt_mul'' ht hmagic
  rw [mulHigh_eq_div]
  exact ⟨rfl, Nat.div_lt_of_lt_mul hprod⟩

/-! ### The table (R102) -/

/-- Settles O26: the derivation of R105 evaluated on each of the 39 entries. -/
theorem tableIsTheDerivedOne : Obligations.TableIsTheDerivedOne :=
  ⟨by decide, by decide, by decide, by decide, by decide⟩

/-! ### The reciprocal multiplication (R103, R105) -/

/-- R105 (c): a constant that is `e / f` above `m / f` divides by `f` every `t` with `t * e < m`: over the denominator `m * f`
the error `t * e` is lost in the division by `m`. -/
theorem mul_div_eq_div_of_error_lt {m f magic e t : Nat} (hf : 0 < f) (hmagic : f * magic = m + e) (herror : t * e < m) :
    t * magic / m = t / f := by
  have hscaled : f * (t * magic) = t * e + m * t := by rw [Nat.mul_left_comm, hmagic]; ring
  calc t * magic / m = f * (t * magic) / (f * m) := (Nat.mul_div_mul_left _ _ hf).symm
    _ = (t * e + m * t) / m / f := by rw [hscaled, Nat.mul_comm f, Nat.div_div_eq_div_mul]
    _ = t / f := by rw [Nat.add_mul_div_left _ _ (Nat.zero_lt_of_lt herror), Nat.div_eq_of_lt herror, Nat.zero_add]

/-- R105 (b): `f` times the rounded-up `m / f` exceeds `m` by at most `f`. -/
theorem mul_div_add_one (m : Nat) {f : Nat} (hf : 0 < f) : f * (m / f + 1) = m + (f - m % f) := by
  have hdiv := Nat.div_add_mod m f
  have hmod := Nat.mod_lt m hf
  rw [Nat.mul_add, Nat.mul_one]
  omega

/-- The invariant division of R105: multiplying by the rounded-up `2^(a+l) / f` divides every number of `a` bits by an `f` of
`l` bits exactly. -/
theorem mul_reciprocal_div_eq_div {a l f t : Nat} (hf : 0 < f) (hfl : f < 2 ^ l) (ht : t < 2 ^ a) :
    t * (2 ^ (a + l) / f + 1) / 2 ^ (a + l) = t / f := by
  have herror : t * (f - 2 ^ (a + l) % f) < 2 ^ (a + l) :=
    calc t * (f - 2 ^ (a + l) % f) ≤ t * f := Nat.mul_le_mul_left t (Nat.sub_le _ _)
      _ < 2 ^ a * 2 ^ l := Nat.mul_lt_mul'' ht hfl
      _ = 2 ^ (a + l) := (Nat.pow_add 2 a l).symm
  exact mul_div_eq_div_of_error_lt hf (mul_div_add_one _ hf) herror

/-- R105 (a), (d): each entry but the first gives the exact quotient of R100, for every dividend. -/
theorem toNat_reciprocalQuotient {d : Fin 39} (hd : 0 < d.val) (n : Wide) :
    (reciprocalQuotient (romTable.get d) n).toNat = n.toNat / 10 ^ d.val := by
  obtain ⟨-, -, -, -, hentries⟩ := tableIsTheDerivedOne
  obtain ⟨-, hpre, -, hupper, hmagic⟩ := hentries d hd
  have hbits : 128 + (romTable.get d).postShift.toNat = 128 - d.val + (d.val + (romTable.get d).postShift.toNat) := by
    omega
  have hpow : (2 : Nat) ^ 128 = 2 ^ d.val * 2 ^ (128 - d.val) := by rw [← Nat.pow_add]; congr 1; omega
  have ht : n.toNat / 2 ^ d.val < 2 ^ (128 - d.val) := Nat.div_lt_of_lt_mul (hpow ▸ n.isLt)
  have hquotient : n.toNat / 2 ^ d.val / 5 ^ d.val = n.toNat / 10 ^ d.val := by
    rw [Nat.div_div_eq_div_mul, ← Nat.mul_pow]
  rw [reciprocalQuotient, BitVec.toNat_ofNat, mulHigh_eq_div, Nat.div_div_eq_div_mul, ← Nat.pow_add, hpre, hmagic, hbits,
    mul_reciprocal_div_eq_div (by positivity) hupper ht, hquotient]
  exact Nat.mod_eq_of_lt (Nat.lt_of_le_of_lt (Nat.div_le_self _ _) n.isLt)

/-- The subtraction of R103 leaves the remainder and never borrows, once the quotient is exact. -/
theorem toNat_sub_mul_of_toNat_eq_div {q n d : Wide} (hq : q.toNat = n.toNat / d.toNat) :
    (n - q * d).toNat = n.toNat % d.toNat := by
  have hle : q.toNat * d.toNat ≤ n.toNat := hq ▸ Nat.div_mul_le_self _ _
  have hprod : (q * d).toNat = q.toNat * d.toNat := BitVec.toNat_mul_of_lt (Nat.lt_of_le_of_lt hle n.isLt)
  have hsub : q * d ≤ n := by rwa [BitVec.le_def, hprod]
  rw [BitVec.toNat_sub_of_le hsub, hprod, hq, Nat.mod_eq_sub_div_mul]

/-- R100: with the table of R102 the divider is plain division, at digit count 0 by the bypass of R106. -/
theorem toNat_divideByPower_romTable (d : Fin 39) (n : Wide) :
    (divideByPower romTable d n).1.toNat = n.toNat / 10 ^ d.val ∧
      (divideByPower romTable d n).2.toNat = n.toNat % 10 ^ d.val := by
  by_cases hd : d = 0
  · subst hd
    simp [divideByPower_zero, Nat.mod_one]
  · have hpos : 0 < d.val := Fin.pos_iff_ne_zero.mpr hd
    obtain ⟨-, -, -, -, hentries⟩ := tableIsTheDerivedOne
    obtain ⟨hdivisor, -⟩ := hentries d hpos
    have hquotient := toNat_reciprocalQuotient hpos n
    rw [divideByPower_of_ne hd]
    refine ⟨hquotient, ?_⟩
    rw [← hdivisor] at hquotient ⊢
    exact toNat_sub_mul_of_toNat_eq_div hquotient

/-! ### The command (R100, R101) -/

theorem exec_divpow10_of_busy_of_le {s : State} {c : Command} (h : s.phase = .busy c) {sc : Nat} (hsc : sc ≤ maxDigits) :
    exec (.divpow10 sc) s =
      .next (s.completed (.ok (divideByPower s.rom ⟨sc, Nat.lt_succ_of_le hsc⟩ c.opa).1
        (divideByPower s.rom ⟨sc, Nat.lt_succ_of_le hsc⟩ c.opa).2)) := by
  rw [exec, execDivpow10, completeWith_of_busy h, dif_neg (Nat.not_lt.mpr hsc), respond_eq]

/-- The digit count is tested before the table is read, so any table gives this fault (R101). -/
theorem exec_divpow10_of_busy_of_lt {s : State} {c : Command} (h : s.phase = .busy c) {sc : Nat} (hsc : maxDigits < sc) :
    exec (.divpow10 sc) s = .next (s.completed (.fault .invalidScale)) := by
  rw [exec, execDivpow10, completeWith_of_busy h, dif_pos hsc, raise_eq]

/-- Settles O24. -/
theorem divpow10IsExactForEveryDividend : Obligations.Divpow10IsExactForEveryDividend := by
  refine fun s c sc hrom hbusy => ⟨rfl, rfl, fun hsc => ?_, exec_divpow10_of_busy_of_lt hbusy⟩
  have hexec := exec_divpow10_of_busy_of_le hbusy hsc
  rw [hrom] at hexec
  exact ⟨_, _, hexec, toNat_divideByPower_romTable ⟨sc, Nat.lt_succ_of_le hsc⟩ c.opa⟩

end Sys2Proof.Machine

/-! PROOF. The rounding policy of 42_rounding_policy.md: `RoundInc` mode by mode (R121 to R125), the rounded magnitude of a
quotient and its distance from the true one, the signed quotient in the directed modes, and the mode check of R126. -/

namespace Sys2Proof
open Sys2Proof.Machine

/-! ### `RoundInc` mode by mode -/

section RoundInc

variable (q r d : Nat) (neg : Bool)

@[simp] theorem roundInc_rne_iff : roundInc q r d neg .rne = true ↔ d < 2 * r + q % 2 := by
  simp [roundInc]

@[simp] theorem roundInc_rha_iff : roundInc q r d neg .rha = true ↔ d ≤ 2 * r := by
  simp [roundInc]

@[simp] theorem roundInc_rdn_iff : roundInc q r d neg .rdn = true ↔ r ≠ 0 ∧ neg = true := by
  simp [roundInc]

@[simp] theorem roundInc_rup_iff : roundInc q r d neg .rup = true ↔ r ≠ 0 ∧ neg = false := by
  simp [roundInc]

@[simp] theorem roundInc_rtz : roundInc q r d neg .rtz = false := rfl

/-- R124 mirrors R123: RUP treats a result as RDN treats its negation. -/
theorem roundInc_rup_eq_rdn_not : roundInc q r d neg .rup = roundInc q r d (!neg) .rdn := rfl

end RoundInc

/-- Settles O28. -/
theorem roundIncByMode : Obligations.RoundIncByMode := fun q r d neg =>
  ⟨roundInc_rne_iff q r d neg, roundInc_rha_iff q r d neg, roundInc_rdn_iff q r d neg, roundInc_rup_iff q r d neg,
    roundInc_rtz q r d neg⟩

/-! ### What follows from the modes (R128) -/

section Consequences

variable {q r d : Nat}

/-- An exact result is never changed: twice a zero remainder, and one more for an odd `q`, does not exceed `d`. -/
theorem roundInc_zero (hd : 0 < d) (neg : Bool) (m : RoundingMode) : roundInc q 0 d neg m = false := by
  rw [Bool.eq_false_iff]
  cases m with
  | rne => rw [ne_eq, roundInc_rne_iff]; omega
  | rha => rw [ne_eq, roundInc_rha_iff]; omega
  | rdn | rup | rtz => simp

/-- RNE asks for more than RHA does, by the tie at an even `q`. -/
theorem roundInc_rha_iff_rne_or_even_tie (neg : Bool) :
    roundInc q r d neg .rha = true ↔ roundInc q r d neg .rne = true ∨ 2 * r = d ∧ q % 2 = 0 := by
  rw [roundInc_rha_iff, roundInc_rne_iff]
  omega

/-- An odd divisor has no midpoint. -/
theorem roundInc_rne_eq_rha_of_odd (hodd : d % 2 = 1) (neg : Bool) : roundInc q r d neg .rne = roundInc q r d neg .rha := by
  have no_tie : ¬(2 * r = d ∧ q % 2 = 0) := by omega
  rw [Bool.eq_iff_iff, roundInc_rha_iff_rne_or_even_tie, or_iff_left no_tie]

/-- Of the two directed modes exactly one leads away from zero. -/
theorem roundInc_rdn_xor_rup (hr : r ≠ 0) (neg : Bool) : (roundInc q r d neg .rdn ^^ roundInc q r d neg .rup) = true := by
  cases neg <;> simp [roundInc, hr]

end Consequences

/-- Settles O31: a division by 1 leaves no remainder, so its last part is the first. -/
theorem roundIncConsequences : Obligations.RoundIncConsequences := by
  intro q r d neg m hd hr
  have exact_unchanged : r = 0 → roundInc q r d neg m = false := fun hzero => hzero ▸ roundInc_zero hd neg m
  have rha_iff := roundInc_rha_iff_rne_or_even_tie (q := q) (r := r) (d := d) neg
  exact ⟨exact_unchanged, rha_iff.mp, fun hrne => rha_iff.mpr (.inl hrne), fun hodd => roundInc_rne_eq_rha_of_odd hodd neg,
    fun hne => roundInc_rdn_xor_rup hne neg, fun hone => exact_unchanged (by omega)⟩

/-! ### The rounded magnitude -/

/-- The magnitude to which R120 reattaches the sign. -/
def roundedMagnitude (n d : Nat) (neg : Bool) (m : RoundingMode) : Nat :=
  n / d + if roundInc (n / d) (n % d) d neg m then 1 else 0

theorem roundedQuotient_eq_signed (n d : Nat) (neg : Bool) (m : RoundingMode) :
    roundedQuotient n d neg m = signed neg (roundedMagnitude n d neg m) := rfl

section Magnitude

variable {n d : Nat} {neg : Bool} {m : RoundingMode}

theorem roundedMagnitude_of_not_roundInc (h : ¬roundInc (n / d) (n % d) d neg m = true) :
    roundedMagnitude n d neg m = n / d := by
  rw [roundedMagnitude, if_neg h, Nat.add_zero]

theorem roundedMagnitude_of_roundInc (h : roundInc (n / d) (n % d) d neg m = true) :
    roundedMagnitude n d neg m = n / d + 1 := by
  rw [roundedMagnitude, if_pos h]

/-- A truncated magnitude is too small by the remainder. -/
theorem roundedMagnitude_mul_of_not_roundInc (h : ¬roundInc (n / d) (n % d) d neg m = true) :
    roundedMagnitude n d neg m * d + n % d = n := by
  rw [roundedMagnitude_of_not_roundInc h, Nat.div_add_mod']

/-- An incremented magnitude is too large by what the remainder lacks of the divisor. -/
theorem roundedMagnitude_mul_of_roundInc (hd : 0 < d) (h : roundInc (n / d) (n % d) d neg m = true) :
    roundedMagnitude n d neg m * d = n + (d - n % d) := by
  have hdiv := Nat.div_add_mod' n d
  have hmod := Nat.mod_lt n hd
  rw [roundedMagnitude_of_roundInc h, Nat.add_mul, Nat.one_mul]
  omega

/-- R121: RNE rounds to nearest. At the midpoint an even quotient is kept and an odd one becomes the even one above it. -/
theorem roundedMagnitude_rne_nearest (hd : 0 < d) (neg : Bool) :
    2 * ((n : Int) - roundedMagnitude n d neg .rne * d).natAbs ≤ d ∧
      (2 * ((n : Int) - roundedMagnitude n d neg .rne * d).natAbs = d → roundedMagnitude n d neg .rne % 2 = 0) := by
  rw [← Int.natCast_mul]
  by_cases hinc : roundInc (n / d) (n % d) d neg .rne = true
  · have hvalue := roundedMagnitude_mul_of_roundInc hd hinc
    have hquotient := roundedMagnitude_of_roundInc hinc
    rw [roundInc_rne_iff] at hinc
    omega
  · have hvalue := roundedMagnitude_mul_of_not_roundInc hinc
    have hquotient := roundedMagnitude_of_not_roundInc hinc
    rw [roundInc_rne_iff] at hinc
    omega

/-- R122: RHA rounds to nearest. The midpoint is always incremented. -/
theorem roundedMagnitude_rha_nearest (hd : 0 < d) (neg : Bool) :
    2 * ((n : Int) - roundedMagnitude n d neg .rha * d).natAbs ≤ d ∧
      (2 * ((n : Int) - roundedMagnitude n d neg .rha * d).natAbs = d → n < roundedMagnitude n d neg .rha * d) := by
  rw [← Int.natCast_mul]
  by_cases hinc : roundInc (n / d) (n % d) d neg .rha = true
  · have hvalue := roundedMagnitude_mul_of_roundInc hd hinc
    have hmod := Nat.mod_lt n hd
    rw [roundInc_rha_iff] at hinc
    omega
  · have hvalue := roundedMagnitude_mul_of_not_roundInc hinc
    rw [roundInc_rha_iff] at hinc
    omega

end Magnitude

/-- Settles O29. -/
theorem nearestModesRoundToNearest : Obligations.NearestModesRoundToNearest := fun n d neg hd =>
  ⟨⟨_, roundedQuotient_eq_signed n d neg .rne, roundedMagnitude_rne_nearest hd neg⟩,
    ⟨_, roundedQuotient_eq_signed n d neg .rha, roundedMagnitude_rha_nearest hd neg⟩⟩

/-! ### The signed quotient in the directed modes -/

@[simp] theorem signed_false (q : Nat) : signed false q = q := rfl
@[simp] theorem signed_true (q : Nat) : signed true q = -(q : Int) := rfl

theorem neg_signed (neg : Bool) (q : Nat) : -signed neg q = signed (!neg) q := by
  cases neg <;> simp

/-- The floor of a negated quotient: below zero the floor leads away from zero, to the incremented magnitude. -/
theorem neg_natCast_fdiv (n : Nat) {d : Nat} (hd : 0 < d) :
    (-(n : Int)).fdiv d = -((n / d + if n % d = 0 then 0 else 1 : Nat) : Int) := by
  have hdvd : (d : Int) ∣ n ↔ n % d = 0 := by rw [Int.natCast_dvd_natCast, Nat.dvd_iff_mod_eq_zero]
  have hsign : (d : Int).sign = 1 := Int.sign_eq_one_of_pos (by exact_mod_cast hd)
  rw [Int.fdiv_eq_ediv_of_nonneg _ (Int.natCast_nonneg d), Int.neg_ediv, hsign]
  by_cases hzero : n % d = 0
  · simp [hdvd, hzero]
  · simp only [hdvd, if_neg hzero, Int.natCast_add, Int.natCast_ediv]
    omega

/-- R123: RDN is the floor of the true quotient. -/
theorem roundedQuotient_rdn_eq_fdiv (n : Nat) {d : Nat} (hd : 0 < d) (neg : Bool) :
    roundedQuotient n d neg .rdn = (signed neg n).fdiv d := by
  cases neg with
  | false => simp [roundedQuotient, Int.fdiv_eq_ediv_of_nonneg]
  | true =>
    have hif : (if roundInc (n / d) (n % d) d true .rdn then 1 else 0) = if n % d = 0 then 0 else 1 := by
      by_cases hzero : n % d = 0 <;> simp [hzero]
    rw [roundedQuotient, hif, signed_true, signed_true, neg_natCast_fdiv n hd]

/-- R124 mirrors R123 on the rounded values. -/
theorem roundedQuotient_rup_eq_neg_rdn (n d : Nat) (neg : Bool) :
    roundedQuotient n d neg .rup = -roundedQuotient n d (!neg) .rdn := by
  rw [roundedQuotient, roundedQuotient, neg_signed, Bool.not_not, roundInc_rup_eq_rdn_not]

/-- R125: RTZ is the truncation of the true quotient. -/
theorem roundedQuotient_rtz_eq_tdiv (n d : Nat) (neg : Bool) : roundedQuotient n d neg .rtz = (signed neg n).tdiv d := by
  cases neg <;> simp [roundedQuotient, Int.neg_tdiv]

/-- Settles O30: the ceiling of a value is the negated floor of its negation, so RUP follows from RDN. -/
theorem directedModesAreFloorCeilingTruncation : Obligations.DirectedModesAreFloorCeilingTruncation := by
  refine fun n d neg hd => ⟨roundedQuotient_rdn_eq_fdiv n hd neg, ?_, roundedQuotient_rtz_eq_tdiv n d neg⟩
  rw [roundedQuotient_rup_eq_neg_rdn, roundedQuotient_rdn_eq_fdiv n hd, neg_signed]

end Sys2Proof

namespace Sys2Proof.Machine

/-! ### The commands that have a mode (R126) -/

section Responses

variable {s : State} {c : Command}

theorem exec_fmulW_of_busy (h : s.phase = .busy c) (w : Width) (rm sc : Nat) :
    exec (.fmulW w rm sc) s = .next (s.completed (checkScale w sc (checkMode rm fun m =>
      narrowWrapping w (mulExact (w.sint c.opa) (w.sint c.opb) sc m)))) := by
  rw [exec, execFmulW, completeWith_of_busy h]

theorem exec_fmulC_of_busy (h : s.phase = .busy c) (w : Width) (rm sc : Nat) :
    exec (.fmulC w rm sc) s = .next (s.completed (checkScale w sc (checkMode rm fun m =>
      narrowChecked w (mulExact (w.sint c.opa) (w.sint c.opb) sc m)))) := by
  rw [exec, execFmulC, completeWith_of_busy h]

theorem exec_fdivW_of_busy (h : s.phase = .busy c) (w : Width) (rm sc : Nat) :
    exec (.fdivW w rm sc) s = .next (s.completed (checkScale w sc (checkMode rm fun m =>
      checkDivisor (decide (w.sint c.opb = 0))
        (narrowWrapping w (divExact (w.sint c.opa) (w.sint c.opb) sc m))))) := by
  rw [exec, execFdivW, completeWith_of_busy h]

theorem exec_fdivC_of_busy (h : s.phase = .busy c) (w : Width) (rm sc : Nat) :
    exec (.fdivC w rm sc) s = .next (s.completed (checkScale w sc (checkMode rm fun m =>
      checkDivisor (decide (w.sint c.opb = 0))
        (narrowChecked w (divExact (w.sint c.opa) (w.sint c.opb) sc m))))) := by
  rw [exec, execFdivC, completeWith_of_busy h]

theorem exec_rescaleC_of_busy (h : s.phase = .busy c) (w : Width) (rm sc tc : Nat) :
    exec (.rescaleC w rm sc tc) s = .next (s.completed (checkScale w sc (checkScale w tc (checkMode rm fun m =>
      narrowChecked w (rescaleExact (w.sint c.opa) sc tc m))))) := by
  rw [exec, execRescaleC, completeWith_of_busy h]

end Responses

/-- The commands that have a mode, at one width, mode number and scale; `tc` is the target scale of RESCALE.C. -/
def modeCommands (w : Width) (rm sc tc : Nat) : List Instr :=
  [.fmulW w rm sc, .fmulC w rm sc, .fdivW w rm sc, .fdivC w rm sc, .rescaleC w rm sc tc]

theorem mem_modeCommands_iff {w : Width} {rm sc tc : Nat} {i : Instr} :
    i ∈ modeCommands w rm sc tc ↔ i = .fmulW w rm sc ∨ i = .fmulC w rm sc ∨ i = .fdivW w rm sc ∨ i = .fdivC w rm sc ∨
      i = .rescaleC w rm sc tc := by
  simp [modeCommands]

/-- R126: past the scale checks the mode check answers for every operand; what would be rounded is not computed. -/
theorem exec_modeCommand_of_lt {s : State} {c : Command} {w : Width} {rm sc tc : Nat} {i : Instr} (hbusy : s.phase = .busy c)
    (hsc : sc ≤ w.maxScale) (htc : tc ≤ w.maxScale) (hrm : 4 < rm) (hi : i ∈ modeCommands w rm sc tc) :
    exec i s = .next (s.completed (.fault .invalidRoundingMode)) := by
  have hnone := RoundingMode.ofNumber_eq_none.mpr hrm
  rcases mem_modeCommands_iff.mp hi with rfl | rfl | rfl | rfl | rfl
  · rw [exec_fmulW_of_busy hbusy, checkScale_of_le hsc, checkMode_of_none hnone]
  · rw [exec_fmulC_of_busy hbusy, checkScale_of_le hsc, checkMode_of_none hnone]
  · rw [exec_fdivW_of_busy hbusy, checkScale_of_le hsc, checkMode_of_none hnone]
  · rw [exec_fdivC_of_busy hbusy, checkScale_of_le hsc, checkMode_of_none hnone]
  · rw [exec_rescaleC_of_busy hbusy, checkScale_of_le hsc, checkScale_of_le htc, checkMode_of_none hnone]

/-- Only these commands put a number other than zero into the mode field (R57). -/
theorem mem_modeCommands_of_fields_rm_ne_zero {i : Instr} (h : i.fields.rm ≠ 0) :
    ∃ (w : Width) (sc tc : Nat), i ∈ modeCommands w i.fields.rm sc tc := by
  simp only [mem_modeCommands_iff]
  cases i with
  | fmulW w rm sc => exact ⟨w, sc, 0, .inl rfl⟩
  | fmulC w rm sc => exact ⟨w, sc, 0, .inr (.inl rfl)⟩
  | fdivW w rm sc => exact ⟨w, sc, 0, .inr (.inr (.inl rfl))⟩
  | fdivC w rm sc => exact ⟨w, sc, 0, .inr (.inr (.inr (.inl rfl)))⟩
  | rescaleC w rm sc tc => exact ⟨w, sc, tc, .inr (.inr (.inr (.inr rfl)))⟩
  | _ => exact absurd rfl h

/-- Settles O56: a decoded word holds the fields of its command (R51), so a mode above 4 in the word is the command's own. -/
theorem unknownModeFaults : Obligations.UnknownModeFaults := by
  refine ⟨fun s c w rm sc tc hbusy hsc htc hrm i hi => exec_modeCommand_of_lt hbusy hsc htc hrm hi,
    fun c i hmode hdecode => ?_⟩
  obtain ⟨-, -, hfields⟩ := (decode_eq_ok_iff_parts c i).mp hdecode
  have hrm : bits c 11 9 = i.fields.rm := congrArg Fields.rm hfields
  rw [hrm] at hmode ⊢
  exact mem_modeCommands_of_fields_rm_ne_zero (by omega)

end Sys2Proof.Machine

/-! PROOF. The interchange decimal bridge of 43_interchange_bridge.md: the words that decode and their parts (R130, R131), the
layout of an encoded decimal (R132), the response of TODEC and of both forms of FROMDEC (R134 to R137), and the round trip
(R139). -/

namespace Sys2Proof
open Sys2Proof.Machine

/-! ### Decoding -/

/-- The words that R131 turns away: a reserved bit is set, or the scale byte is too large. -/
def MalformedDecimal (x : Wide) : Prop :=
  bits x 126 120 ≠ 0 ∨ bits x 111 96 ≠ 0 ∨ maxDecimalScale < bits x 119 112

/-- What stands at the places of R130, whether or not the word is well formed. -/
def decimalParts (x : Wide) : Decimal :=
  ⟨bits x 127 127 == 1, bits x 119 112, bits x 95 0⟩

theorem decodeDec_of_malformed {x : Wide} (h : MalformedDecimal x) : decodeDec x = none := by
  rcases h with hhigh | hlow | hscale
  · simp [decodeDec, hhigh]
  · simp [decodeDec, hlow]
  · simp [decodeDec, hscale]

theorem decodeDec_of_not_malformed {x : Wide} (h : ¬MalformedDecimal x) : decodeDec x = some (decimalParts x) := by
  obtain ⟨hhigh, hlow, hscale⟩ : bits x 126 120 = 0 ∧ bits x 111 96 = 0 ∧ ¬maxDecimalScale < bits x 119 112 := by
    simpa [MalformedDecimal] using h
  simp [decodeDec, decimalParts, hhigh, hlow, hscale]

theorem decodeDec_eq_none_iff (x : Wide) : decodeDec x = none ↔ MalformedDecimal x := by
  refine ⟨fun hnone => ?_, decodeDec_of_malformed⟩
  by_contra hwell
  rw [decodeDec_of_not_malformed hwell] at hnone
  exact Option.some_ne_none _ hnone

/-- A word decodes to its parts or to nothing. -/
theorem eq_decimalParts_of_decodeDec {x : Wide} {d : Decimal} (h : decodeDec x = some d) : d = decimalParts x := by
  have hwell : ¬MalformedDecimal x := by
    rw [← decodeDec_eq_none_iff, h]
    exact Option.some_ne_none d
  exact Option.some.inj (h.symm.trans (decodeDec_of_not_malformed hwell))

/-- The sign is the highest bit of the port. -/
theorem decimalParts_neg_iff (x : Wide) : (decimalParts x).neg = true ↔ 2 ^ 127 ≤ x.toNat := by
  have hx := x.isLt
  rw [decimalParts, beq_iff_eq, bits_eq]
  omega

theorem decimalParts_scale (x : Wide) : (decimalParts x).scale = x.toNat / 2 ^ 112 % 2 ^ 8 :=
  bits_eq x 119 112

theorem decimalParts_magnitude (x : Wide) : (decimalParts x).magnitude = x.toNat % 2 ^ 96 :=
  (bits_eq x 95 0).trans (by rw [Nat.pow_zero, Nat.div_one])

/-- Settles O33: the parts of a decoded word are read off the port by arithmetic. -/
theorem decodeDecimalByLayout : Obligations.DecodeDecimalByLayout := by
  refine fun x => ⟨decodeDec_eq_none_iff x, fun d hdecode => ?_⟩
  obtain rfl := eq_decimalParts_of_decodeDec hdecode
  exact ⟨decimalParts_neg_iff x, decimalParts_scale x, decimalParts_magnitude x⟩

/-! ### Encoding -/

/-- The layout of R132 as a sum: each part that fits its place counts there. -/
theorem toNat_encodeDec {d : Decimal} (hscale : d.scale ≤ maxDecimalScale) (hmagnitude : d.magnitude < 2 ^ 96) :
    (encodeDec d).toNat = (if d.neg then 2 ^ 127 else 0) + d.scale * 2 ^ 112 + d.magnitude := by
  have hbyte : d.scale % 2 ^ 8 = d.scale := Nat.mod_eq_of_lt (Nat.lt_of_le_of_lt hscale (by decide))
  simp only [encodeDec, toNat_concat, BitVec.toNat_ofNat, BitVec.toNat_ofBool, hbyte, Nat.mod_eq_of_lt hmagnitude]
  cases d.neg with
  | false => rw [Bool.toNat_false, if_neg Bool.false_ne_true]; omega
  | true => rw [Bool.toNat_true, if_pos rfl]; omega

/-- R132: what is encoded decodes to itself, as no part reaches into a reserved place or into another part. -/
theorem decodeDec_encodeDec {d : Decimal} (hscale : d.scale ≤ maxDecimalScale) (hmagnitude : d.magnitude < 2 ^ 96) :
    decodeDec (encodeDec d) = some d := by
  have hvalue := toNat_encodeDec hscale hmagnitude
  have hle : d.scale ≤ 28 := hscale
  have hwell : ¬MalformedDecimal (encodeDec d) := by
    simp only [MalformedDecimal, bits_eq, hvalue, maxDecimalScale]
    split <;> omega
  have hneg : (decimalParts (encodeDec d)).neg = d.neg := by
    rw [Bool.eq_iff_iff, decimalParts_neg_iff, hvalue]
    split
    next hset => exact iff_of_true (by omega) hset
    next hclear => exact iff_of_false (by omega) hclear
  have hparts_scale : (decimalParts (encodeDec d)).scale = d.scale := by
    rw [decimalParts_scale, hvalue]
    split <;> omega
  have hparts_magnitude : (decimalParts (encodeDec d)).magnitude = d.magnitude := by
    rw [decimalParts_magnitude, hvalue]
    split <;> omega
  rw [decodeDec_of_not_malformed hwell, Option.some.injEq]
  exact (Decimal.mk.injEq ..).mpr ⟨hneg, hparts_scale, hparts_magnitude⟩

/-- Settles O34. -/
theorem decodeOfEncodeDecimal : Obligations.DecodeOfEncodeDecimal :=
  fun _ hscale hmagnitude => ⟨toNat_encodeDec hscale hmagnitude, decodeDec_encodeDec hscale hmagnitude⟩

/-! ### Fixed-point values as decimals -/

/-- Every legal scale is a scale of the interchange decimal (R134). -/
theorem Width.maxScale_le_maxDecimalScale (w : Width) : w.maxScale ≤ maxDecimalScale := by
  cases w <;> decide

/-- The bound of the signed range, `2^63` at most, is below that of the magnitude (R134). -/
theorem Width.half_lt_two_pow_96 (w : Width) : w.half < 2 ^ 96 := by
  cases w <;> decide

/-- R134: every operand's magnitude fits the 96 bits. -/
theorem Width.natAbs_sint_lt (w : Width) (x : Wide) : (w.sint x).natAbs < 2 ^ 96 := by
  have hrange := (Width.fits_iff w (w.sint x)).mp (w.fits_sint x)
  have hhalf := w.half_lt_two_pow_96
  omega

/-- Reattaching its own sign to the magnitude of an integer. -/
theorem signed_natAbs (v : Int) : signed (decide (v < 0)) v.natAbs = v := by
  by_cases hneg : v < 0
  · rw [decide_eq_true hneg, signed_true]
    omega
  · rw [decide_eq_false hneg, signed_false]
    omega

/-- Wrapping the signed value of an operand gives back its low `W` bits. -/
theorem Width.toNat_wrap_sint (w : Width) (x : Wide) : (w.wrap (w.sint x)).toNat = x.toNat % 2 ^ w.bits := by
  rw [Width.wrap, Width.sint, BitVec.ofInt_toInt, BitVec.toNat_setWidth_of_le w.bits_le_wide, BitVec.toNat_setWidth]

end Sys2Proof

namespace Sys2Proof.Machine

/-! ### TODEC -/

/-- The decimal that TODEC makes of a fixed-point operand (R134): the value's own sign and magnitude at the type's scale. -/
def decimalOfFixed (w : Width) (sc : Nat) (x : Wide) : Decimal :=
  ⟨decide (w.sint x < 0), sc, (w.sint x).natAbs⟩

section Responses

variable {s : State} {c : Command}

theorem exec_todec_of_busy (h : s.phase = .busy c) (w : Width) (sc : Nat) :
    exec (.todec w sc) s = .next (s.completed (checkScale w sc (.ok (encodeDec (decimalOfFixed w sc c.opa)) 0))) := by
  rw [exec, execTodec, completeWith_of_busy h]
  rfl

theorem exec_fromdecW_of_busy (h : s.phase = .busy c) (w : Width) (sc : Nat) :
    exec (.fromdecW w sc) s = .next (s.completed (checkScale w sc (checkDecimal c.opa fun x =>
      narrowWrapping w (fromDecimalExact x sc)))) := by
  rw [exec, execFromdecW, completeWith_of_busy h]

theorem exec_fromdecC_of_busy (h : s.phase = .busy c) (w : Width) (sc : Nat) :
    exec (.fromdecC w sc) s = .next (s.completed (checkScale w sc (checkDecimal c.opa fun x =>
      narrowChecked w (fromDecimalExact x sc)))) := by
  rw [exec, execFromdecC, completeWith_of_busy h]

end Responses

/-- Settles O35. -/
theorem todecEncodesSignScaleMagnitude : Obligations.TodecEncodesSignScaleMagnitude := by
  refine fun w sc => ⟨rfl, rfl, fun s c hbusy => ⟨fun hsc => ?_, fun hsc => ?_⟩⟩
  · refine ⟨encodeDec (decimalOfFixed w sc c.opa), ?_, ?_⟩
    · rw [exec_todec_of_busy hbusy, checkScale_of_le hsc]
    · have hscale : sc ≤ maxDecimalScale := hsc.trans w.maxScale_le_maxDecimalScale
      rw [toNat_encodeDec hscale (w.natAbs_sint_lt c.opa)]
      simp [decimalOfFixed]
  · rw [exec_todec_of_busy hbusy, checkScale_of_lt hsc]

/-! ### FROMDEC -/

theorem narrowChecked_of_fits {w : Width} {v : Int} (h : w.fits v = true) : narrowChecked w v = .ok (w.wrap v) 0 := by
  rw [narrowChecked, if_pos h, narrowWrapping_eq]

theorem narrowChecked_of_not_fits {w : Width} {v : Int} (h : w.fits v = false) : narrowChecked w v = .fault .overflow := by
  simp [narrowChecked, h]

/-- The magnitude `Q` of R135: copied, scaled up, or divided and rounded to even. -/
def magnitudeAtScale (x : Decimal) (sc : Nat) : Nat :=
  if x.scale = sc then x.magnitude
  else if x.scale < sc then x.magnitude * 10 ^ (sc - x.scale)
  else roundedMagnitude x.magnitude (10 ^ (x.scale - sc)) x.neg .rne

/-- R135: the meaning copies by scaling up with the factor 1. -/
theorem fromDecimalExact_eq_signed (x : Decimal) (sc : Nat) :
    fromDecimalExact x sc = signed x.neg (magnitudeAtScale x sc) := by
  rcases lt_trichotomy x.scale sc with hup | heq | hdown
  · rw [fromDecimalExact, magnitudeAtScale, if_pos hup.le, if_neg hup.ne, if_pos hup, pow10]
  · simp [fromDecimalExact, magnitudeAtScale, pow10, heq]
  · rw [fromDecimalExact, magnitudeAtScale, if_neg hdown.not_ge, if_neg hdown.ne', if_neg hdown.not_gt,
      roundedQuotient_eq_signed, pow10]

/-- Settles O36. -/
theorem fromdecWrappingResult : Obligations.FromdecWrappingResult := by
  refine fun w sc => ⟨rfl, rfl, fun s c hbusy => ⟨fun hsc => ?_, fun hsc hnone => ?_, ?_⟩⟩
  · rw [exec_fromdecW_of_busy hbusy, checkScale_of_lt hsc]
  · rw [exec_fromdecW_of_busy hbusy, checkScale_of_le hsc, checkDecimal_of_none hnone]
  · rintro x hsc hsome q r rfl rfl Q hQ
    have hvalue : fromDecimalExact x sc = signed x.neg Q := hQ ▸ fromDecimalExact_eq_signed x sc
    refine ⟨w.wrap (signed x.neg Q), ?_, w.toNat_wrap _⟩
    rw [exec_fromdecW_of_busy hbusy, checkScale_of_le hsc, checkDecimal_of_some hsome, hvalue, narrowWrapping_eq]

/-- Settles O37: the same value as in FROMDEC.W, then the two cases of a checked result. -/
theorem fromdecCheckedResult : Obligations.FromdecCheckedResult := by
  refine fun w sc => ⟨rfl, rfl, fun s c hbusy => ⟨fun hsc => ?_, fun hsc hnone => ?_, ?_⟩⟩
  · rw [exec_fromdecC_of_busy hbusy, checkScale_of_lt hsc]
  · rw [exec_fromdecC_of_busy hbusy, checkScale_of_le hsc, checkDecimal_of_none hnone]
  · rintro x hsc hsome q r rfl rfl Q V hQ hV
    have hvalue : fromDecimalExact x sc = V := by
      rw [hV, hQ]
      exact fromDecimalExact_eq_signed x sc
    have hexec := exec_fromdecC_of_busy hbusy w sc
    rw [checkScale_of_le hsc, checkDecimal_of_some hsome, hvalue] at hexec
    refine ⟨fun hfits => ⟨w.wrap V, ?_, w.toNat_wrap V, w.sint_wrap_of_fits hfits⟩, fun hfits => ?_⟩
    · rw [hexec, narrowChecked_of_fits hfits]
    · rw [hexec, narrowChecked_of_not_fits hfits]

/-! ### The round trip (R139) -/

/-- The scales are equal, so the magnitude is copied and takes its sign back. -/
theorem fromDecimalExact_decimalOfFixed (w : Width) (sc : Nat) (x : Wide) :
    fromDecimalExact (decimalOfFixed w sc x) sc = w.sint x := by
  have hcopy : magnitudeAtScale (decimalOfFixed w sc x) sc = (w.sint x).natAbs := if_pos rfl
  rw [fromDecimalExact_eq_signed, hcopy]
  exact signed_natAbs (w.sint x)

/-- Settles O39. -/
theorem decimalRoundTripIsExact : Obligations.DecimalRoundTripIsExact := by
  intro w sc s c hsc hbusy
  refine ⟨encodeDec (decimalOfFixed w sc c.opa), ?_, fun s' c' hbusy' hopa => ?_⟩
  · rw [exec_todec_of_busy hbusy, checkScale_of_le hsc]
  · have hdecode : decodeDec c'.opa = some (decimalOfFixed w sc c.opa) :=
      hopa ▸ decodeDec_encodeDec (hsc.trans w.maxScale_le_maxDecimalScale) (w.natAbs_sint_lt c.opa)
    refine ⟨w.wrap (w.sint c.opa), w.toNat_wrap_sint c.opa, ?_, ?_⟩
    · rw [exec_fromdecW_of_busy hbusy', checkScale_of_le hsc, checkDecimal_of_some hdecode,
        fromDecimalExact_decimalOfFixed, narrowWrapping_eq]
    · rw [exec_fromdecC_of_busy hbusy', checkScale_of_le hsc, checkDecimal_of_some hdecode,
        fromDecimalExact_decimalOfFixed, narrowChecked_of_fits (w.fits_sint c.opa)]

end Sys2Proof.Machine

/-! PROOF. The simple operators of 44_fixed_addsub.md: what the twelve commands share (R150) is said once for an operator and
a narrowing, and the statement of each form goes through the six operators. -/

namespace Sys2Proof.Machine

/-- The six operators of 44_fixed_addsub.md; each is a wrapping and a checked command. -/
inductive SimpleOperator where
  | add
  | sub
  | neg
  | abs
  | inc
  | dec

namespace SimpleOperator

/-- In the order of their opcodes (R58). -/
def all : List SimpleOperator := [.add, .sub, .neg, .abs, .inc, .dec]

def wrapping (w : Width) (sc : Nat) : SimpleOperator → Instr
  | .add => .faddW w sc
  | .sub => .fsubW w sc
  | .neg => .fnegW w sc
  | .abs => .fabsW w sc
  | .inc => .fincW w sc
  | .dec => .fdecW w sc

def checked (w : Width) (sc : Nat) : SimpleOperator → Instr
  | .add => .faddC w sc
  | .sub => .fsubC w sc
  | .neg => .fnegC w sc
  | .abs => .fabsC w sc
  | .inc => .fincC w sc
  | .dec => .fdecC w sc

/-- The exact result `V` of R151 to R162 for the raw values `a` and `b` at scale `sc`. -/
def value (sc : Nat) : SimpleOperator → Int → Int → Int
  | .add => fun a b => a + b
  | .sub => fun a b => a - b
  | .neg => fun a _ => -a
  | .abs => fun a _ => |a|
  | .inc => fun a _ => a + 10 ^ sc
  | .dec => fun a _ => a - 10 ^ sc

/-! ### The model's exact results -/

theorem natAbs_eq_value (sc : Nat) : (fun a _ : Int => (a.natAbs : Int)) = abs.value sc :=
  funext₂ fun a _ => Int.natCast_natAbs a

theorem add_pow10_eq_value (sc : Nat) : (fun a _ : Int => a + (pow10 sc : Nat)) = inc.value sc := by
  simp [pow10, value]

theorem sub_pow10_eq_value (sc : Nat) : (fun a _ : Int => a - (pow10 sc : Nat)) = dec.value sc := by
  simp [pow10, value]

/-! ### The meaning of each form (R150) -/

theorem exec_wrapping (op : SimpleOperator) (w : Width) (sc : Nat) (s : State) :
    exec (op.wrapping w sc) s = completeFixed w sc s narrowWrapping (op.value sc) := by
  cases op with
  | add | sub | neg => rfl
  | abs => rw [wrapping, exec, execFabsW, natAbs_eq_value]
  | inc => rw [wrapping, exec, execFincW, add_pow10_eq_value]
  | dec => rw [wrapping, exec, execFdecW, sub_pow10_eq_value]

theorem exec_checked (op : SimpleOperator) (w : Width) (sc : Nat) (s : State) :
    exec (op.checked w sc) s = completeFixed w sc s narrowChecked (op.value sc) := by
  cases op with
  | add | sub | neg => rfl
  | abs => rw [checked, exec, execFabsC, natAbs_eq_value]
  | inc => rw [checked, exec, execFincC, add_pow10_eq_value]
  | dec => rw [checked, exec, execFdecC, sub_pow10_eq_value]

theorem wrapping_format (op : SimpleOperator) (w : Width) (sc : Nat) : (op.wrapping w sc).format = .X := by
  cases op <;> rfl

theorem checked_format (op : SimpleOperator) (w : Width) (sc : Nat) : (op.checked w sc).format = .X := by
  cases op <;> rfl

section Responses

variable {s : State} {c : Command}

theorem exec_wrapping_of_busy (h : s.phase = .busy c) (op : SimpleOperator) (w : Width) (sc : Nat) :
    exec (op.wrapping w sc) s = .next (s.completed (checkScale w sc
      (narrowWrapping w (op.value sc (w.sint c.opa) (w.sint c.opb))))) :=
  (op.exec_wrapping w sc s).trans (completeFixed_of_busy h ..)

theorem exec_checked_of_busy (h : s.phase = .busy c) (op : SimpleOperator) (w : Width) (sc : Nat) :
    exec (op.checked w sc) s = .next (s.completed (checkScale w sc
      (narrowChecked w (op.value sc (w.sint c.opa) (w.sint c.opb))))) :=
  (op.exec_checked w sc s).trans (completeFixed_of_busy h ..)

end Responses

/-! ### The rows of one form -/

/-- One form's commands with their opcodes and exact results, in the order of `all`. -/
def rows (form : SimpleOperator → Instr) (sc : Nat) (a b : Int) : List (Instr × BitVec 8 × Int) :=
  all.map fun op => (form op, (form op).opcode, op.value sc a b)

/-- A statement's list written out is `rows` by evaluation; that is where its opcode numbers meet those of `Instr.opcode`. -/
theorem forall_mem_rows {form : SimpleOperator → Instr} {sc : Nat} {a b : Int} {P : Instr × BitVec 8 × Int → Prop}
    (h : ∀ op, P (form op, (form op).opcode, op.value sc a b)) : ∀ row ∈ rows form sc a b, P row :=
  List.forall_mem_map.mpr fun op _ => h op

end SimpleOperator

/-- Settles O40: past the scale check the response is the wrapped exact result. -/
theorem simpleOperatorsWrapping : Obligations.SimpleOperatorsWrapping := by
  intro w sc s c hbusy
  refine SimpleOperator.forall_mem_rows (form := SimpleOperator.wrapping w sc) (sc := sc)
    (a := w.sint c.opa) (b := w.sint c.opb) fun op => ?_
  refine ⟨rfl, op.wrapping_format w sc, fun hsc => ?_, fun hsc => ⟨_, ?_, w.toNat_wrap _⟩⟩
  · rw [SimpleOperator.exec_wrapping_of_busy hbusy, checkScale_of_lt hsc]
  · rw [SimpleOperator.exec_wrapping_of_busy hbusy, checkScale_of_le hsc, narrowWrapping_eq]

/-- Settles O41: past the scale check the range of the exact result decides, and a result in range is read back unchanged. -/
theorem simpleOperatorsChecked : Obligations.SimpleOperatorsChecked := by
  intro w sc s c hbusy
  refine SimpleOperator.forall_mem_rows (form := SimpleOperator.checked w sc) (sc := sc)
    (a := w.sint c.opa) (b := w.sint c.opb) fun op => ?_
  refine ⟨rfl, op.checked_format w sc, fun hsc => ?_, fun hsc hrange => ?_, fun hsc hrange => ?_⟩
  · rw [SimpleOperator.exec_checked_of_busy hbusy, checkScale_of_lt hsc]
  · have hfits := (w.fits_iff_range _).mpr hrange
    refine ⟨_, ?_, w.toNat_wrap _, w.sint_wrap_of_fits hfits⟩
    rw [SimpleOperator.exec_checked_of_busy hbusy, checkScale_of_le hsc, narrowChecked_of_fits hfits]
  · have hfits := Bool.eq_false_iff.mpr (mt (w.fits_iff_range _).mp hrange)
    rw [SimpleOperator.exec_checked_of_busy hbusy, checkScale_of_le hsc, narrowChecked_of_not_fits hfits]

end Sys2Proof.Machine

/-! PROOF. The fixed-point multiply of 45_fixed_multiply.md: a rounded quotient measured on the signed values, the product of
R170 as the correctly rounded true product, and the responses of FMUL.W and FMUL.C (R171, R172). -/

namespace Sys2Proof
open Sys2Proof.Machine

/-! ### A magnitude with its sign reattached -/

@[simp] theorem abs_signed (neg : Bool) (q : Nat) : |signed neg q| = q := by
  cases neg <;> simp

/-- A sign does not change parity. -/
theorem signed_emod_two_eq_zero_iff (neg : Bool) (q : Nat) : signed neg q % 2 = 0 ↔ q % 2 = 0 := by
  cases neg with
  | false => rw [signed_false]; omega
  | true => rw [signed_true]; omega

/-- The rule of signs: the exclusive or of the signs is the sign of a product (R170). -/
theorem signed_xor_mul (p q : Bool) (m n : Nat) : signed (p ^^ q) (m * n) = signed p m * signed q n := by
  cases p <;> cases q <;> simp

/-- With one sign on both, two values are as far apart as their magnitudes. -/
theorem abs_signed_sub_signed_mul (neg : Bool) (n q d : Nat) :
    |signed neg n - signed neg q * d| = (((n : Int) - q * d).natAbs : Nat) := by
  have hfactor : signed neg n - signed neg q * d = signed neg 1 * ((n : Int) - q * d) := by
    cases neg with
    | false => simp
    | true => simp only [signed_true]; ring
  rw [hfactor, abs_mul, abs_signed, Nat.cast_one, one_mul, Int.natCast_natAbs]

/-! ### The signed quotient in the nearest modes -/

section Nearest

variable {n d : Nat}

/-- R121 on the signed values: the sign changes neither the distance nor the parity of the magnitude. -/
theorem roundedQuotient_rne_nearest (hd : 0 < d) (neg : Bool) :
    2 * |signed neg n - roundedQuotient n d neg .rne * d| ≤ d ∧
      (2 * |signed neg n - roundedQuotient n d neg .rne * d| = d → roundedQuotient n d neg .rne % 2 = 0) := by
  rw [roundedQuotient_eq_signed, abs_signed_sub_signed_mul, signed_emod_two_eq_zero_iff]
  exact_mod_cast roundedMagnitude_rne_nearest hd neg

/-- R122 on the signed values: a tie goes away from zero. -/
theorem roundedQuotient_rha_nearest (hd : 0 < d) (neg : Bool) :
    2 * |signed neg n - roundedQuotient n d neg .rha * d| ≤ d ∧
      (2 * |signed neg n - roundedQuotient n d neg .rha * d| = d → (n : Int) < |roundedQuotient n d neg .rha| * d) := by
  rw [roundedQuotient_eq_signed, abs_signed_sub_signed_mul, abs_signed]
  exact_mod_cast roundedMagnitude_rha_nearest hd neg

end Nearest

end Sys2Proof

namespace Sys2Proof.Machine

/-! ### The rounded product (R170) -/

/-- The sign of R170: "XOR of input signs". -/
def productSign (a b : Int) : Bool := decide (a < 0) ^^ decide (b < 0)

/-- Reattached to the product of the magnitudes it gives the true product, zero included. -/
theorem signed_productSign (a b : Int) : signed (productSign a b) (a * b).natAbs = a * b := by
  rw [productSign, Int.natAbs_mul, signed_xor_mul, signed_natAbs, signed_natAbs]

theorem mulExact_eq_roundedQuotient (a b : Int) (sc : Nat) (m : RoundingMode) :
    mulExact a b sc m = roundedQuotient (a * b).natAbs (10 ^ sc) (productSign a b) m := by
  rw [Int.natAbs_mul]
  rfl

section Product

variable (a b : Int) (sc : Nat)

/-- R170 in RNE: nearest to the true product, ties to even. -/
theorem mulExact_rne_nearest :
    2 * |a * b - mulExact a b sc .rne * 10 ^ sc| ≤ 10 ^ sc ∧
      (2 * |a * b - mulExact a b sc .rne * 10 ^ sc| = 10 ^ sc → mulExact a b sc .rne % 2 = 0) := by
  have hnearest := roundedQuotient_rne_nearest (n := (a * b).natAbs) (pow_pos (by decide : 0 < 10) sc) (productSign a b)
  rw [signed_productSign, ← mulExact_eq_roundedQuotient] at hnearest
  exact_mod_cast hnearest

/-- R170 in RHA: nearest to the true product, ties away from zero. -/
theorem mulExact_rha_nearest :
    2 * |a * b - mulExact a b sc .rha * 10 ^ sc| ≤ 10 ^ sc ∧
      (2 * |a * b - mulExact a b sc .rha * 10 ^ sc| = 10 ^ sc → |a * b| < |mulExact a b sc .rha| * 10 ^ sc) := by
  have hnearest := roundedQuotient_rha_nearest (n := (a * b).natAbs) (pow_pos (by decide : 0 < 10) sc) (productSign a b)
  rw [signed_productSign, ← mulExact_eq_roundedQuotient, Int.natCast_natAbs] at hnearest
  exact_mod_cast hnearest

/-- R170 in the directed modes: the floor, the ceiling and the truncation of the true product. -/
theorem mulExact_directed :
    mulExact a b sc .rdn = (a * b).fdiv (10 ^ sc) ∧
    mulExact a b sc .rup = -((-(a * b)).fdiv (10 ^ sc)) ∧
    mulExact a b sc .rtz = (a * b).tdiv (10 ^ sc) := by
  have hdirected := directedModesAreFloorCeilingTruncation (a * b).natAbs (10 ^ sc) (productSign a b) (by positivity)
  simpa only [signed_productSign, ← mulExact_eq_roundedQuotient, Nat.cast_pow, Nat.cast_ofNat] using hdirected

end Product

/-! ### FMUL (R171, R172) -/

section Responses

variable {s : State} {c : Command} {w : Width} {rm sc : Nat} {m : RoundingMode}

theorem exec_fmulW_of_mode (hbusy : s.phase = .busy c) (hsc : sc ≤ w.maxScale) (hm : RoundingMode.ofNumber rm = some m) :
    exec (.fmulW w rm sc) s =
      .next (s.completed (.ok (w.wrap (mulExact (w.sint c.opa) (w.sint c.opb) sc m)) 0)) := by
  rw [exec_fmulW_of_busy hbusy, checkScale_of_le hsc, checkMode_of_some hm, narrowWrapping_eq]

theorem exec_fmulC_of_mode (hbusy : s.phase = .busy c) (hsc : sc ≤ w.maxScale) (hm : RoundingMode.ofNumber rm = some m) :
    exec (.fmulC w rm sc) s =
      .next (s.completed (narrowChecked w (mulExact (w.sint c.opa) (w.sint c.opb) sc m))) := by
  rw [exec_fmulC_of_busy hbusy, checkScale_of_le hsc, checkMode_of_some hm]

end Responses

/-- Settles O42: the value written out in the statement is `mulExact`, and its range decides the checked form. -/
theorem fmulResults : Obligations.FmulResults := by
  refine fun w rm sc => ⟨rfl, rfl, rfl, rfl, fun s c hbusy => ⟨fun hsc => ?_, fun hsc hrm => ?_, ?_⟩⟩
  · rw [exec_fmulW_of_busy hbusy, exec_fmulC_of_busy hbusy, checkScale_of_lt hsc, checkScale_of_lt hsc]
    exact ⟨rfl, rfl⟩
  · exact ⟨exec_modeCommand_of_lt hbusy hsc hsc hrm (mem_modeCommands_iff.mpr (.inl rfl)),
      exec_modeCommand_of_lt hbusy hsc hsc hrm (mem_modeCommands_iff.mpr (.inr (.inl rfl)))⟩
  · rintro m hsc hm _ _ V _ _ Q rfl rfl rfl rfl hQ hV
    have hvalue : mulExact (w.sint c.opa) (w.sint c.opb) sc m = V := by
      rw [hV, hQ]
      rfl
    have hchecked := exec_fmulC_of_mode hbusy hsc hm
    rw [hvalue] at hchecked
    refine ⟨w.wrap V, w.toNat_wrap V, ?_, fun hfits => ⟨w.sint_wrap_of_fits hfits, ?_⟩, fun hfits => ?_⟩
    · rw [exec_fmulW_of_mode hbusy hsc hm, hvalue]
    · rw [hchecked, narrowChecked_of_fits hfits]
    · rw [hchecked, narrowChecked_of_not_fits hfits]

/-- Settles O43: one lemma for each nearest mode and one for the directed modes. -/
theorem multiplyIsCorrectlyRounded : Obligations.MultiplyIsCorrectlyRounded := by
  refine ⟨?_, fun a b sc => ⟨mulExact_rne_nearest a b sc, mulExact_rha_nearest a b sc, mulExact_directed a b sc⟩⟩
  rintro s c w rm sc m V hbusy hsc hm rfl
  exact ⟨exec_fmulW_of_mode hbusy hsc hm, exec_fmulC_of_mode hbusy hsc hm⟩

end Sys2Proof.Machine

/-! PROOF. The fixed-point divide of 46_fixed_divide.md: a division by a divisor of either sign as the division by its
magnitude, the quotient of R180 as the correctly rounded true quotient, and the responses of FDIV.W and FDIV.C (R181, R182). -/

namespace Sys2Proof
open Sys2Proof.Machine

/-! ### A divisor of either sign -/

theorem signed_eq_mul_sign {b : Int} (hb : b ≠ 0) (n : Nat) : signed (decide (b < 0)) n = n * b.sign := by
  rcases lt_or_gt_of_ne hb with hneg | hpos
  · rw [decide_eq_true hneg, signed_true, Int.sign_eq_neg_one_of_neg hneg, mul_neg_one]
  · rw [decide_eq_false hpos.not_gt, signed_false, Int.sign_eq_one_of_pos hpos, mul_one]

/-- What negating both dividend and divisor does not change may be computed with the magnitude of the divisor, its sign moved to
the dividend. -/
theorem apply_mul_sign_natAbs {f : Int → Int → Int} (hneg : ∀ x y, f (-x) (-y) = f x y) (x : Int) {b : Int} (hb : b ≠ 0) :
    f (x * b.sign) b.natAbs = f x b := by
  rcases lt_or_gt_of_ne hb with hlt | hgt
  · rw [Int.sign_eq_neg_one_of_neg hlt, Int.ofNat_natAbs_of_nonpos hlt.le, mul_neg_one, hneg]
  · rw [Int.sign_eq_one_of_pos hgt, Int.natAbs_of_nonneg hgt.le, mul_one]

theorem abs_mul_sign_sub_mul_natAbs (x q : Int) {b : Int} (hb : b ≠ 0) : |x * b.sign - q * b.natAbs| = |x - q * b| := by
  refine apply_mul_sign_natAbs (f := fun x y => |x - q * y|) (fun x y => ?_) x hb
  rw [mul_neg, ← neg_sub', abs_neg]

theorem RoundingMode.exists_ofNumber_of_le {rm : Nat} (h : rm ≤ 4) : ∃ m, RoundingMode.ofNumber rm = some m :=
  Option.ne_none_iff_exists'.mp (mt Machine.RoundingMode.ofNumber_eq_none.mp h.not_gt)

end Sys2Proof

namespace Sys2Proof.Machine

/-! ### The rounded quotient (R180) -/

theorem divExact_eq_roundedQuotient (a b : Int) (sc : Nat) (m : RoundingMode) :
    divExact a b sc m = roundedQuotient (a.natAbs * 10 ^ sc) b.natAbs (productSign a b) m := rfl

/-- The sign of R180 makes the magnitude of the scaled dividend the dividend of a division by `|b|`. -/
theorem signed_productSign_mul_pow (a : Int) {b : Int} (hb : b ≠ 0) (sc : Nat) :
    signed (productSign a b) (a.natAbs * 10 ^ sc) = a * 10 ^ sc * b.sign := by
  rw [productSign, signed_xor_mul, signed_natAbs, signed_eq_mul_sign hb, Nat.cast_pow, Nat.cast_ofNat, mul_assoc]

section Quotient

variable (a : Int) {b : Int} (sc : Nat)

/-- R180 in RNE: nearest to the true quotient, ties to even. -/
theorem divExact_rne_nearest (hb : b ≠ 0) :
    2 * |a * 10 ^ sc - divExact a b sc .rne * b| ≤ |b| ∧
      (2 * |a * 10 ^ sc - divExact a b sc .rne * b| = |b| → divExact a b sc .rne % 2 = 0) := by
  have hnearest := roundedQuotient_rne_nearest (n := a.natAbs * 10 ^ sc) (Int.natAbs_pos.mpr hb) (productSign a b)
  rwa [signed_productSign_mul_pow a hb, ← divExact_eq_roundedQuotient, abs_mul_sign_sub_mul_natAbs _ _ hb,
    Int.natCast_natAbs] at hnearest

/-- R180 in RHA: nearest to the true quotient, ties away from zero. -/
theorem divExact_rha_nearest (hb : b ≠ 0) :
    2 * |a * 10 ^ sc - divExact a b sc .rha * b| ≤ |b| ∧
      (2 * |a * 10 ^ sc - divExact a b sc .rha * b| = |b| → |a| * 10 ^ sc < |divExact a b sc .rha * b|) := by
  have hnearest := roundedQuotient_rha_nearest (n := a.natAbs * 10 ^ sc) (Int.natAbs_pos.mpr hb) (productSign a b)
  rwa [signed_productSign_mul_pow a hb, ← divExact_eq_roundedQuotient, abs_mul_sign_sub_mul_natAbs _ _ hb, Nat.cast_mul,
    Nat.cast_pow, Nat.cast_ofNat, Int.natCast_natAbs, Int.natCast_natAbs, ← abs_mul] at hnearest

/-- R180 in the directed modes: the floor, the ceiling and the truncation of the true quotient. -/
theorem divExact_directed (hb : b ≠ 0) :
    divExact a b sc .rdn = (a * 10 ^ sc).fdiv b ∧
    divExact a b sc .rup = -((-(a * 10 ^ sc)).fdiv b) ∧
    divExact a b sc .rtz = (a * 10 ^ sc).tdiv b := by
  have hdirected := directedModesAreFloorCeilingTruncation (a.natAbs * 10 ^ sc) b.natAbs (productSign a b)
    (Int.natAbs_pos.mpr hb)
  rwa [signed_productSign_mul_pow a hb, ← neg_mul, apply_mul_sign_natAbs Int.neg_fdiv_neg _ hb,
    apply_mul_sign_natAbs Int.neg_fdiv_neg _ hb, apply_mul_sign_natAbs Int.neg_tdiv_neg _ hb] at hdirected

end Quotient

/-! ### FDIV (R181, R182) -/

section Responses

variable {s : State} {c : Command} {w : Width} {rm sc : Nat} {m : RoundingMode}

theorem exec_fdiv_of_divisor_zero (hbusy : s.phase = .busy c) (hsc : sc ≤ w.maxScale)
    (hm : RoundingMode.ofNumber rm = some m) (hzero : w.sint c.opb = 0) :
    exec (.fdivW w rm sc) s = .next (s.completed (.fault .divideByZero)) ∧
    exec (.fdivC w rm sc) s = .next (s.completed (.fault .divideByZero)) := by
  rw [exec_fdivW_of_busy hbusy, exec_fdivC_of_busy hbusy, decide_eq_true hzero]
  simp only [checkScale_of_le hsc, checkMode_of_some hm, checkDivisor_true, and_self]

theorem exec_fdivW_of_mode (hbusy : s.phase = .busy c) (hsc : sc ≤ w.maxScale) (hm : RoundingMode.ofNumber rm = some m)
    (hne : w.sint c.opb ≠ 0) :
    exec (.fdivW w rm sc) s =
      .next (s.completed (.ok (w.wrap (divExact (w.sint c.opa) (w.sint c.opb) sc m)) 0)) := by
  rw [exec_fdivW_of_busy hbusy, checkScale_of_le hsc, checkMode_of_some hm, decide_eq_false hne, checkDivisor_false,
    narrowWrapping_eq]

theorem exec_fdivC_of_mode (hbusy : s.phase = .busy c) (hsc : sc ≤ w.maxScale) (hm : RoundingMode.ofNumber rm = some m)
    (hne : w.sint c.opb ≠ 0) :
    exec (.fdivC w rm sc) s =
      .next (s.completed (narrowChecked w (divExact (w.sint c.opa) (w.sint c.opb) sc m))) := by
  rw [exec_fdivC_of_busy hbusy, checkScale_of_le hsc, checkMode_of_some hm, decide_eq_false hne, checkDivisor_false]

/-- A wrapping and a checked form that narrow the same value answer with the same result when it fits. -/
theorem exists_result_of_narrowed_pair {wrapping checked : Instr} {V : Int}
    (hwrapping : exec wrapping s = .next (s.completed (.ok (w.wrap V) 0)))
    (hchecked : exec checked s = .next (s.completed (narrowChecked w V))) :
    ∃ res : Wide, (res.toNat : Int) = V % 2 ^ w.bits ∧
      exec wrapping s = .next (s.completed (.ok res 0)) ∧
      (w.fits V = true → w.sint res = V ∧ exec checked s = .next (s.completed (.ok res 0))) ∧
      (w.fits V = false → exec checked s = .next (s.completed (.fault .overflow))) := by
  refine ⟨w.wrap V, w.toNat_wrap V, hwrapping, fun hfits => ⟨w.sint_wrap_of_fits hfits, ?_⟩, fun hfits => ?_⟩
  · rw [hchecked, narrowChecked_of_fits hfits]
  · rw [hchecked, narrowChecked_of_not_fits hfits]

end Responses

/-- Settles O44: one lemma for each fault, in their order; then the value written out in the statement is `divExact`. -/
theorem fdivResults : Obligations.FdivResults := by
  refine fun w rm sc => ⟨rfl, rfl, rfl, rfl, fun s c hbusy =>
    ⟨fun hsc => ?scale, fun hsc hrm => ?mode, fun hsc hrm hzero => ?divisor, ?value⟩⟩
  case scale =>
    rw [exec_fdivW_of_busy hbusy, exec_fdivC_of_busy hbusy, checkScale_of_lt hsc, checkScale_of_lt hsc]
    exact ⟨rfl, rfl⟩
  case mode =>
    exact ⟨exec_modeCommand_of_lt hbusy hsc hsc hrm (mem_modeCommands_iff (tc := sc).mpr (.inr (.inr (.inl rfl)))),
      exec_modeCommand_of_lt hbusy hsc hsc hrm (mem_modeCommands_iff.mpr (.inr (.inr (.inr (.inl rfl)))))⟩
  case divisor =>
    obtain ⟨m, hm⟩ := RoundingMode.exists_ofNumber_of_le hrm
    exact exec_fdiv_of_divisor_zero hbusy hsc hm hzero
  case value =>
    rintro m hsc hm _ _ V _ _ _ Q rfl rfl hne rfl rfl rfl hQ hV
    have hvalue : divExact (w.sint c.opa) (w.sint c.opb) sc m = V := by
      rw [hV, hQ]
      rfl
    rw [← hvalue]
    exact exists_result_of_narrowed_pair (exec_fdivW_of_mode hbusy hsc hm hne) (exec_fdivC_of_mode hbusy hsc hm hne)

/-- Settles O45: one lemma for each nearest mode and one for the directed modes, over the magnitude of the divisor. -/
theorem divideIsCorrectlyRounded : Obligations.DivideIsCorrectlyRounded := by
  refine ⟨?_, fun a b sc hb => ⟨divExact_rne_nearest a sc hb, divExact_rha_nearest a sc hb, divExact_directed a sc hb⟩⟩
  rintro s c w rm sc m V hbusy hsc hm hne rfl
  exact ⟨exec_fdivW_of_mode hbusy hsc hm hne, exec_fdivC_of_mode hbusy hsc hm hne⟩

end Sys2Proof.Machine

/-! PROOF. The scale rescaler of 47_scale_rescaler.md: the signed result of R190 in its two directions, the response of RESCALE.C,
the bound of R191 item 4 on a magnitude that lost a digit, and the round trip of R193. -/

namespace Sys2Proof
open Sys2Proof.Machine

/-! ### The magnitude after a division -/

/-- Rounding adds at most one to the quotient, in every mode. -/
theorem roundedMagnitude_le_div_add_one (n d : Nat) (neg : Bool) (m : RoundingMode) : roundedMagnitude n d neg m ≤ n / d + 1 := by
  unfold roundedMagnitude
  split <;> omega

/-- A multiple of the divisor leaves no remainder, so no mode increments its quotient. -/
theorem roundedMagnitude_mul_self (n : Nat) {d : Nat} (hd : 0 < d) (neg : Bool) (m : RoundingMode) :
    roundedMagnitude (n * d) d neg m = n := by
  rw [roundedMagnitude, Nat.mul_mod_left, roundInc_zero hd, Nat.mul_div_cancel n hd]
  rfl

theorem natAbs_signed (neg : Bool) (q : Nat) : (signed neg q).natAbs = q := by
  cases neg <;> simp

/-! ### The signed range in terms of magnitudes -/

theorem Width.natAbs_sint_le_half (w : Width) (x : Wide) : (w.sint x).natAbs ≤ w.half := by
  have hrange := (Width.fits_iff w (w.sint x)).mp (w.fits_sint x)
  omega

theorem Width.fits_of_natAbs_lt_half {w : Width} {v : Int} (h : v.natAbs < w.half) : w.fits v = true := by
  rw [Width.fits_iff]
  omega

theorem Width.two_lt_half (w : Width) : 2 < w.half := by
  cases w <;> decide

/-- R191 item 4: a magnitude in range, divided by two or more, has room for the increment of the rounding. -/
theorem Width.fits_roundedQuotient {w : Width} {n d : Nat} (hn : n ≤ w.half) (hd : 2 ≤ d) (neg : Bool) (m : RoundingMode) :
    w.fits (roundedQuotient n d neg m) = true := by
  refine Width.fits_of_natAbs_lt_half ?_
  rw [roundedQuotient_eq_signed, natAbs_signed]
  have hhalf := w.two_lt_half
  calc roundedMagnitude n d neg m
    _ ≤ n / d + 1 := roundedMagnitude_le_div_add_one n d neg m
    _ ≤ n / 2 + 1 := Nat.succ_le_succ (Nat.div_le_div_left hd (by decide))
    _ < w.half := by omega

end Sys2Proof

namespace Sys2Proof.Machine

/-! ### The signed result of R190 -/

section Value

variable {sc tc : Nat}

theorem rescaleExact_of_le (h : sc ≤ tc) (v : Int) (m : RoundingMode) : rescaleExact v sc tc m = v * 10 ^ (tc - sc) := by
  rw [rescaleExact, if_pos h, pow10, Nat.cast_pow, Nat.cast_ofNat]

theorem rescaleExact_of_lt (h : tc < sc) (v : Int) (m : RoundingMode) :
    rescaleExact v sc tc m = roundedQuotient v.natAbs (10 ^ (sc - tc)) (decide (v < 0)) m := by
  rw [rescaleExact, if_neg h.not_ge, pow10]

/-- Dropping digits stays in the signed range: at least one digit goes, and ten is more than two. -/
theorem fits_rescaleExact_of_lt (h : tc < sc) (w : Width) (x : Wide) (m : RoundingMode) :
    w.fits (rescaleExact (w.sint x) sc tc m) = true := by
  have hdivisor : 2 ≤ 10 ^ (sc - tc) := (by decide : 2 ≤ 10).trans (Nat.le_self_pow (Nat.sub_ne_zero_of_lt h) 10)
  rw [rescaleExact_of_lt h]
  exact Width.fits_roundedQuotient (w.natAbs_sint_le_half x) hdivisor _ m

/-- R193: what was scaled up is a multiple of the power of ten that divides it on the way down. -/
theorem rescaleExact_mul_pow (h : sc ≤ tc) (v : Int) (m : RoundingMode) :
    rescaleExact (v * 10 ^ (tc - sc)) tc sc m = v := by
  rcases h.eq_or_lt with rfl | hlt
  · rw [rescaleExact_of_le le_rfl, Nat.sub_self, pow_zero, mul_one, mul_one]
  · have hpow : (0 : Int) < 10 ^ (tc - sc) := by positivity
    have hsign : v * 10 ^ (tc - sc) < 0 ↔ v < 0 :=
      ⟨(neg_of_mul_neg_left · hpow.le), (mul_neg_of_neg_of_pos · hpow)⟩
    have habs : (v * 10 ^ (tc - sc)).natAbs = v.natAbs * 10 ^ (tc - sc) := by
      rw [Int.natAbs_mul, Int.natAbs_pow]
      rfl
    simp only [rescaleExact_of_lt hlt, habs, hsign, roundedQuotient_eq_signed]
    rw [roundedMagnitude_mul_self _ (by positivity), signed_natAbs]

end Value

/-! ### RESCALE.C -/

section Responses

variable {s : State} {c : Command} {w : Width} {rm sc tc : Nat}

/-- A source or a target scale out of range is the fault InvalidScale. -/
theorem exec_rescaleC_of_scale_lt (hbusy : s.phase = .busy c) (h : w.maxScale < sc ∨ w.maxScale < tc) :
    exec (.rescaleC w rm sc tc) s = .next (s.completed (.fault .invalidScale)) := by
  rw [exec_rescaleC_of_busy hbusy]
  rcases lt_or_ge w.maxScale sc with hsource | hsource
  · rw [checkScale_of_lt hsource]
  · rw [checkScale_of_le hsource, checkScale_of_lt (h.resolve_left hsource.not_gt)]

variable {m : RoundingMode}

theorem exec_rescaleC_of_mode (hbusy : s.phase = .busy c) (hsc : sc ≤ w.maxScale) (htc : tc ≤ w.maxScale)
    (hm : RoundingMode.ofNumber rm = some m) :
    exec (.rescaleC w rm sc tc) s =
      .next (s.completed (narrowChecked w (rescaleExact (w.sint c.opa) sc tc m))) := by
  rw [exec_rescaleC_of_busy hbusy, checkScale_of_le hsc, checkScale_of_le htc, checkMode_of_some hm]

/-- Completions of one state show the response: equal next states have equal responses. -/
theorem response_eq_of_next_completed_eq {r r' : Response}
    (h : (Host.Outcome.next (s.completed r) : Host.Outcome State Fault Refusal) = .next (s.completed r')) : r = r' :=
  Option.some.inj (congrArg State.response (Host.Outcome.next.inj h))

/-- A checked result that is OK reads back as the value that was narrowed. -/
theorem sint_of_narrowChecked_eq_ok {v : Int} {x : Wide} (h : narrowChecked w v = .ok x 0) : w.sint x = v := by
  rcases narrowChecked_cases w v with ⟨hfits, hok⟩ | ⟨-, hfault⟩
  · obtain ⟨rfl, -⟩ := Response.ok.inj (hok.symm.trans h)
    exact w.sint_wrap_of_fits hfits
  · cases hfault.symm.trans h

/-- An OK response of RESCALE.C reads back as the signed result of R190. -/
theorem sint_of_exec_rescaleC_eq_ok (hbusy : s.phase = .busy c) (hsc : sc ≤ w.maxScale) (htc : tc ≤ w.maxScale)
    (hm : RoundingMode.ofNumber rm = some m) {x : Wide}
    (hok : exec (.rescaleC w rm sc tc) s = .next (s.completed (.ok x 0))) :
    w.sint x = rescaleExact (w.sint c.opa) sc tc m :=
  sint_of_narrowChecked_eq_ok (response_eq_of_next_completed_eq ((exec_rescaleC_of_mode hbusy hsc htc hm).symm.trans hok))

end Responses

/-- Settles O47: one lemma for each fault; then the value written out in the statement is `rescaleExact`, and its range decides. -/
theorem rescaleResult : Obligations.RescaleResult := by
  refine fun w rm sc tc => ⟨rfl, rfl, fun s c hbusy => ⟨exec_rescaleC_of_scale_lt hbusy, fun hsc htc hrm => ?mode, ?value⟩⟩
  case mode =>
    exact exec_modeCommand_of_lt hbusy hsc htc hrm (mem_modeCommands_iff.mpr (.inr (.inr (.inr (.inr rfl)))))
  case value =>
    rintro m hsc htc hm _ V _ Q rfl rfl hQ hV
    have hvalue : rescaleExact (w.sint c.opa) sc tc m = V := by
      rw [hV, hQ]
      rcases le_or_gt sc tc with hup | hdown
      · rw [rescaleExact_of_le hup, if_pos hup]
      · rw [rescaleExact_of_lt hdown, if_neg hdown.not_ge]
        simp [roundedQuotient, signed]
    have hexec := exec_rescaleC_of_mode hbusy hsc htc hm
    rw [hvalue] at hexec
    refine ⟨fun hfits => ⟨w.wrap V, ?_, w.toNat_wrap V, w.sint_wrap_of_fits hfits⟩, fun hfits => ?_⟩
    · rw [hexec, narrowChecked_of_fits hfits]
    · rw [hexec, narrowChecked_of_not_fits hfits]

/-- Settles O48: the value always fits when digits are dropped. -/
theorem rescaleDownNeverOverflows : Obligations.RescaleDownNeverOverflows := by
  intro w rm sc tc s c hbusy hsc hdown hrm
  obtain ⟨m, hm⟩ := RoundingMode.exists_ofNumber_of_le hrm
  refine ⟨w.wrap (rescaleExact (w.sint c.opa) sc tc m), ?_⟩
  rw [exec_rescaleC_of_mode hbusy hsc (hdown.le.trans hsc) hm, narrowChecked_of_fits (fits_rescaleExact_of_lt hdown w c.opa m)]

/-- Settles O49: the OK response of the first command holds the exact multiple, which the second divides without a remainder;
the value that comes back was an operand, so it fits. -/
theorem rescaleUpThenDownIsIdentity : Obligations.RescaleUpThenDownIsIdentity := by
  rintro w rm rm' sc tc s s' c c' x hbusy hbusy' hup htc hrm hrm' hok rfl
  have hsc : sc ≤ w.maxScale := hup.trans htc
  obtain ⟨m, hm⟩ := RoundingMode.exists_ofNumber_of_le hrm
  obtain ⟨m', hm'⟩ := RoundingMode.exists_ofNumber_of_le hrm'
  have hscaled : w.sint c'.opa = w.sint c.opa * 10 ^ (tc - sc) := by
    rw [sint_of_exec_rescaleC_eq_ok hbusy hsc htc hm hok, rescaleExact_of_le hup]
  refine ⟨hscaled, w.wrap (w.sint c.opa), w.toNat_wrap_sint c.opa, ?_⟩
  rw [exec_rescaleC_of_mode hbusy' htc hsc hm', hscaled, rescaleExact_mul_pow hup, narrowChecked_of_fits (w.fits_sint c.opa)]

end Sys2Proof.Machine

/-! PROOF. Fixed-point compare and classify (48_fixed_compare_classify.md): the response of FCMP and of FCLASS, the six
predicates of R201 on the signed raw value, and the consequences of R202. -/

namespace Sys2Proof

/-! ### The six predicates of a raw value (R201) -/

/-- The layout of R201, from the lowest bit: a word of six truth values, the rest zero. -/
def predicateBits (isZero isNegative isPositive isInteger isEvenInt isOddInt : Bool) : Wide :=
  (BitVec.ofBool isOddInt ++ BitVec.ofBool isEvenInt ++ BitVec.ofBool isInteger ++ BitVec.ofBool isPositive
    ++ BitVec.ofBool isNegative ++ BitVec.ofBool isZero).setWidth 128

theorem getLsbD_predicateBits (z n p i e o : Bool) :
    (predicateBits z n p i e o).getLsbD 0 = z ∧ (predicateBits z n p i e o).getLsbD 1 = n ∧
    (predicateBits z n p i e o).getLsbD 2 = p ∧ (predicateBits z n p i e o).getLsbD 3 = i ∧
    (predicateBits z n p i e o).getLsbD 4 = e ∧ (predicateBits z n p i e o).getLsbD 5 = o := by
  revert z n p i e o
  decide

theorem toNat_predicateBits_lt (z n p i e o : Bool) : (predicateBits z n p i e o).toNat < 64 := by
  rw [predicateBits, BitVec.toNat_setWidth_of_le (by decide)]
  exact BitVec.isLt _

/-- FCLASS fills the layout with the predicates of the raw value's sign and magnitude. -/
theorem classBits_eq_predicateBits (a : Int) (sc : Nat) :
    classBits a sc = predicateBits (decide (a = 0)) (decide (a < 0)) (decide (0 ≤ a))
      (decide (a.natAbs % 10 ^ sc = 0))
      (decide (a.natAbs % 10 ^ sc = 0) && decide (a.natAbs / 10 ^ sc % 2 = 0))
      (decide (a.natAbs % 10 ^ sc = 0) && decide (a.natAbs / 10 ^ sc % 2 = 1)) := rfl

/-- The magnitude is divisible exactly when the value is. -/
theorem natAbs_mod_pow_eq_zero_iff (a : Int) (sc : Nat) : a.natAbs % 10 ^ sc = 0 ↔ (10 : Int) ^ sc ∣ a := by
  rw [← Nat.dvd_iff_mod_eq_zero, ← Int.natCast_dvd, Nat.cast_pow, Nat.cast_ofNat]

/-- The integer part of a multiple `q * 10^s` is `q`, so the magnitude has the parity of `q`. -/
theorem natAbs_mul_pow_div (q : Int) (sc : Nat) : (q * 10 ^ sc).natAbs / 10 ^ sc = q.natAbs := by
  rw [Int.natAbs_mul, Int.natAbs_pow]
  exact Nat.mul_div_cancel _ (by positivity)

/-- R201: a value is an integer with a part of parity `p` exactly when it is such a multiple of `10^s`; the sign does not matter. -/
theorem integer_with_parity_iff (a : Int) (sc : Nat) {p : Nat} (hp : p < 2) :
    a.natAbs % 10 ^ sc = 0 ∧ a.natAbs / 10 ^ sc % 2 = p ↔ ∃ k : Int, a = (2 * k + p) * 10 ^ sc := by
  rw [natAbs_mod_pow_eq_zero_iff]
  constructor
  · rintro ⟨⟨q, rfl⟩, hparity⟩
    rw [mul_comm, natAbs_mul_pow_div] at hparity
    refine ⟨q / 2, ?_⟩
    have hq : q = 2 * (q / 2) + p := by omega
    rw [← hq, mul_comm]
  · rintro ⟨k, rfl⟩
    rw [natAbs_mul_pow_div]
    exact ⟨dvd_mul_left _ _, by omega⟩

/-- R201: each bit of the result as a predicate of the signed value. -/
theorem classBits_predicates (a : Int) (sc : Nat) :
    ((classBits a sc).getLsbD 0 = true ↔ a = 0) ∧ ((classBits a sc).getLsbD 1 = true ↔ a < 0) ∧
    ((classBits a sc).getLsbD 2 = true ↔ 0 ≤ a) ∧ ((classBits a sc).getLsbD 3 = true ↔ (10 : Int) ^ sc ∣ a) ∧
    ((classBits a sc).getLsbD 4 = true ↔ ∃ k : Int, a = 2 * k * 10 ^ sc) ∧
    ((classBits a sc).getLsbD 5 = true ↔ ∃ k : Int, a = (2 * k + 1) * 10 ^ sc) ∧
    (classBits a sc).toNat < 64 := by
  have heven := integer_with_parity_iff a sc (p := 0) (by decide)
  have hodd := integer_with_parity_iff a sc (p := 1) (by decide)
  rw [Nat.cast_one] at hodd
  simp only [Nat.cast_zero, add_zero] at heven
  simp only [classBits_eq_predicateBits, getLsbD_predicateBits, Bool.and_eq_true, decide_eq_true_iff]
  exact ⟨trivial, trivial, trivial, natAbs_mod_pow_eq_zero_iff a sc, heven, hodd, toNat_predicateBits_lt ..⟩

/-- R202 item 2: a value is negative or not, and a multiple of `10^s` has an even or an odd integer part; zero is an even one. -/
theorem toNat_classBits_mem (a : Int) (sc : Nat) : (classBits a sc).toNat ∈ [2, 4, 26, 28, 29, 42, 44] := by
  have hpositive : decide (0 ≤ a) = !decide (a < 0) := by
    rw [← decide_not, decide_eq_decide, not_lt]
  have hodd : decide (a.natAbs / 10 ^ sc % 2 = 1) = !decide (a.natAbs / 10 ^ sc % 2 = 0) := by
    rw [← decide_not, decide_eq_decide, ← ne_eq, Nat.mod_two_ne_zero]
  rw [classBits_eq_predicateBits, hpositive, hodd]
  by_cases hzero : a = 0
  · simp [hzero, predicateBits]
  · rw [decide_eq_false hzero]
    generalize decide (a < 0) = negative, decide (a.natAbs % 10 ^ sc = 0) = integer,
      decide (a.natAbs / 10 ^ sc % 2 = 0) = even
    revert negative integer even
    decide

end Sys2Proof

namespace Sys2Proof.Machine

/-! ### The response of each command (R200, R201) -/

section Responses

variable {s : State} {c : Command}

theorem exec_fcmp_of_busy (h : s.phase = .busy c) (w : Width) (sc : Nat) :
    exec (.fcmp w sc) s = .next (s.completed (checkScale w sc (.ok (compareBits (decide (w.sint c.opa = w.sint c.opb))
      (decide (w.sint c.opa < w.sint c.opb)) (decide (w.sint c.opb < w.sint c.opa))) 0))) := by
  rw [exec, execFcmp, completeWith_of_busy h]
  rfl

theorem exec_fclass_of_busy (h : s.phase = .busy c) (w : Width) (sc : Nat) :
    exec (.fclass w sc) s = .next (s.completed (checkScale w sc (.ok (classBits (w.sint c.opa) sc) 0))) := by
  rw [exec, execFclass, completeWith_of_busy h, respond_eq]

theorem exec_fclass_of_scale_le (h : s.phase = .busy c) {w : Width} {sc : Nat} (hsc : sc ≤ w.maxScale) :
    exec (.fclass w sc) s = .next (s.completed (.ok (classBits (w.sint c.opa) sc) 0)) := by
  rw [exec_fclass_of_busy h, checkScale_of_le hsc]

/-- An answer that is known is the only one. -/
theorem exec_eq_ok_iff_of_exec_eq_ok {i : Instr} {res : Wide} (h : exec i s = .next (s.completed (.ok res 0))) (x : Wide) :
    exec i s = .next (s.completed (.ok x 0)) ↔ res = x := by
  refine ⟨fun hx => ?_, fun hx => hx ▸ h⟩
  obtain ⟨hres, -⟩ := Response.ok.inj (response_eq_of_next_completed_eq (h.symm.trans hx))
  exact hres

end Responses

/-- Settles O50: the integers are in linear order, so the argument is the one for CMP128. -/
theorem fcmpReportsSignedOrder : Obligations.FcmpReportsSignedOrder := by
  refine fun w sc => ⟨rfl, rfl, fun s c hbusy => ⟨fun hsc => ⟨_, ?_, compareBits_order rfl⟩, fun hsc => ?_⟩⟩
  · rw [exec_fcmp_of_busy hbusy, checkScale_of_le hsc]
  · rw [exec_fcmp_of_busy hbusy, checkScale_of_lt hsc]

/-- Settles O51. -/
theorem fclassReportsSixPredicates : Obligations.FclassReportsSixPredicates := by
  refine fun w sc => ⟨rfl, rfl, fun s c hbusy => ⟨fun hsc => ?_, fun hsc => ?_⟩⟩
  · exact ⟨_, exec_fclass_of_scale_le hbusy hsc, classBits_predicates (w.sint c.opa) sc⟩
  · rw [exec_fclass_of_busy hbusy, checkScale_of_lt hsc]

/-- Settles O52. -/
theorem fclassHasSevenResults : Obligations.FclassHasSevenResults :=
  fun w sc _ c hbusy hsc => ⟨_, exec_fclass_of_scale_le hbusy hsc, toNat_classBits_mem (w.sint c.opa) sc⟩

/-- An OK response of FSUB.C reads back as the difference of the raw values (R154). -/
theorem sint_of_exec_fsubC_eq_ok {s : State} {c : Command} {w : Width} {sc : Nat} {d : Wide} (hbusy : s.phase = .busy c)
    (hsc : sc ≤ w.maxScale) (hok : exec (.fsubC w sc) s = .next (s.completed (.ok d 0))) :
    w.sint d = w.sint c.opa - w.sint c.opb := by
  have hexec := SimpleOperator.exec_checked_of_busy hbusy .sub w sc
  rw [checkScale_of_le hsc] at hexec
  exact sint_of_narrowChecked_eq_ok (response_eq_of_next_completed_eq (hexec.symm.trans hok))

/-- Each answer of FCMP says one order of the raw values, once the scale is in range. -/
theorem exec_fcmp_eq_ok_iff {s : State} {c : Command} {w : Width} {sc : Nat} (hbusy : s.phase = .busy c)
    (hsc : sc ≤ w.maxScale) :
    (exec (.fcmp w sc) s = .next (s.completed (.ok 1 0)) ↔ w.sint c.opa = w.sint c.opb) ∧
    (exec (.fcmp w sc) s = .next (s.completed (.ok 2 0)) ↔ w.sint c.opa < w.sint c.opb) ∧
    (exec (.fcmp w sc) s = .next (s.completed (.ok 4 0)) ↔ w.sint c.opb < w.sint c.opa) := by
  obtain ⟨-, -, hfcmp⟩ := fcmpReportsSignedOrder w sc
  obtain ⟨hinRange, -⟩ := hfcmp s c hbusy
  obtain ⟨res, hexec, heq, hlt, hgt, -⟩ := hinRange hsc
  have answer_iff := exec_eq_ok_iff_of_exec_eq_ok hexec
  exact ⟨(answer_iff 1).trans heq, (answer_iff 2).trans hlt, (answer_iff 4).trans hgt⟩

/-- Settles O53: FCMP tells the order of the raw values, exchanged or not, and the sign of a difference that did not overflow
tells the same. -/
theorem fcmpAgreesWithSubtraction : Obligations.FcmpAgreesWithSubtraction := by
  intro w sc s s' c c' d hbusy hbusy' hsc
  obtain ⟨fcmp_eq_iff, fcmp_lt_iff, -⟩ := exec_fcmp_eq_ok_iff hbusy hsc
  obtain ⟨-, -, fcmp_gt_iff'⟩ := exec_fcmp_eq_ok_iff hbusy' hsc
  refine ⟨fun hopa hopb => ?_, fun hsub hopa => ?_⟩
  · rw [fcmp_lt_iff, fcmp_gt_iff', hopa, hopb]
  · have hdiff : w.sint c'.opa = w.sint c.opa - w.sint c.opb := hopa ▸ sint_of_exec_fsubC_eq_ok hbusy hsc hsub
    obtain ⟨hzero, hnegative, -⟩ := classBits_predicates (w.sint c'.opa) sc
    refine ⟨_, exec_fclass_of_scale_le hbusy' hsc, ?_, ?_⟩
    · rw [hzero, fcmp_eq_iff, hdiff, sub_eq_zero]
    · rw [hnegative, fcmp_lt_iff, hdiff, sub_neg]

end Sys2Proof.Machine

/-! PROOF. Exceptions (60_exceptions.md): the status codes (R211), what each check of the shared operations can report and
hence what each command can (R219), the commands that fault on a scale, a decimal or a divisor (R213, R215, R217), the
agreement of the two forms of a pair (R220), and the order of the faults (R218). -/

namespace Sys2Proof

/-- The form sW of an operand is zero when its low `W` bits are. -/
theorem Width.sint_eq_zero_of_mod_eq_zero {w : Width} {x : Wide} (h : x.toNat % 2 ^ w.bits = 0) : w.sint x = 0 := by
  rw [Width.sint_eq_ite, h, if_pos (by positivity), Nat.cast_zero]

end Sys2Proof

namespace Sys2Proof.Machine

/-! ### Status codes (R211) -/

theorem CommandFault.code_toNat_le (f : CommandFault) : f.code.toNat ≤ 6 := by
  cases f <;> decide

/-- Settles O54. -/
theorem statusCodes : Obligations.StatusCodes := by
  refine ⟨fun _ _ => rfl, rfl, rfl, rfl, rfl, rfl, rfl, fun r => ?_⟩
  cases r with
  | ok res aux => exact Nat.zero_le 6
  | fault f => exact f.code_toNat_le

/-! ### What a response can report (R219) -/

/-- The response is OK or one of the faults listed. -/
def Response.FaultsIn (r : Response) (fs : List CommandFault) : Prop :=
  ∀ f, r = .fault f → f ∈ fs

section FaultsIn

variable {w : Width} {k : Response} {fs : List CommandFault}

theorem faultsIn_ok (res aux : Wide) : (Response.ok res aux).FaultsIn fs := by
  intro f hf
  cases hf

theorem faultsIn_fault (f : CommandFault) : (Response.fault f).FaultsIn (f :: fs) := by
  rintro _ ⟨⟩
  exact List.mem_cons_self

theorem Response.FaultsIn.cons (h : k.FaultsIn fs) (f : CommandFault) : k.FaultsIn (f :: fs) :=
  fun g hg => List.mem_cons_of_mem f (h g hg)

/-- Each check of R218 reports its own fault or hands on what follows it. -/
theorem checkScale_faultsIn (h : k.FaultsIn fs) (sc : Nat) : (checkScale w sc k).FaultsIn (.invalidScale :: fs) := by
  rcases lt_or_ge w.maxScale sc with hsc | hsc
  · rw [checkScale_of_lt hsc]
    exact faultsIn_fault _
  · rw [checkScale_of_le hsc]
    exact h.cons _

theorem checkMode_faultsIn {k : RoundingMode → Response} (h : ∀ m, (k m).FaultsIn fs) (rm : Nat) :
    (checkMode rm k).FaultsIn (.invalidRoundingMode :: fs) := by
  cases hm : RoundingMode.ofNumber rm with
  | none =>
    rw [checkMode_of_none hm]
    exact faultsIn_fault _
  | some m =>
    rw [checkMode_of_some hm]
    exact (h m).cons _

theorem checkDecimal_faultsIn {k : Decimal → Response} (h : ∀ x, (k x).FaultsIn fs) (opa : Wide) :
    (checkDecimal opa k).FaultsIn (.invalidOperand :: fs) := by
  cases hx : decodeDec opa with
  | none =>
    rw [checkDecimal_of_none hx]
    exact faultsIn_fault _
  | some x =>
    rw [checkDecimal_of_some hx]
    exact (h x).cons _

theorem checkDivisor_faultsIn (h : k.FaultsIn fs) (isZero : Bool) :
    (checkDivisor isZero k).FaultsIn (.divideByZero :: fs) := by
  cases isZero with
  | false => exact h.cons _
  | true => exact faultsIn_fault _

theorem narrowWrapping_faultsIn (v : Int) : (narrowWrapping w v).FaultsIn fs :=
  faultsIn_ok _ _

theorem narrowChecked_faultsIn (v : Int) : (narrowChecked w v).FaultsIn [.overflow] := by
  rcases narrowChecked_cases w v with ⟨-, hok⟩ | ⟨-, hfault⟩
  · rw [hok]
    exact narrowWrapping_faultsIn v
  · rw [hfault]
    exact faultsIn_fault _

end FaultsIn

/-- R150: the six operators share one row of R219 for each form. -/
theorem SimpleOperator.exists_wrapping_response_faultsIn {s : State} {c : Command} (hbusy : s.phase = .busy c)
    (op : SimpleOperator) (w : Width) (sc : Nat) :
    ∃ r, exec (op.wrapping w sc) s = .next (s.completed r) ∧ r.FaultsIn [.invalidScale] :=
  ⟨_, op.exec_wrapping_of_busy hbusy w sc, checkScale_faultsIn (narrowWrapping_faultsIn _) sc⟩

theorem SimpleOperator.exists_checked_response_faultsIn {s : State} {c : Command} (hbusy : s.phase = .busy c)
    (op : SimpleOperator) (w : Width) (sc : Nat) :
    ∃ r, exec (op.checked w sc) s = .next (s.completed r) ∧ r.FaultsIn [.invalidScale, .overflow] :=
  ⟨_, op.exec_checked_of_busy hbusy w sc, checkScale_faultsIn (narrowChecked_faultsIn _) sc⟩

/-- R219, row by row: the checks of each command's rule, in their order, are the faults of its row. -/
theorem exists_response_faultsIn_reportable (i : Instr) {s : State} {c : Command} (hbusy : s.phase = .busy c) :
    ∃ r, exec i s = .next (s.completed r) ∧ r.FaultsIn (reportable i) := by
  cases i with
  | add128 => exact ⟨_, exec_add128_of_busy hbusy, faultsIn_ok _ _⟩
  | sub128 => exact ⟨_, exec_sub128_of_busy hbusy, faultsIn_ok _ _⟩
  | cmp128 => exact ⟨_, exec_cmp128_of_busy hbusy, faultsIn_ok _ _⟩
  | shl128 sh => exact ⟨_, exec_shl128_of_busy hbusy sh, faultsIn_ok _ _⟩
  | shr128 sh => exact ⟨_, exec_shr128_of_busy hbusy sh, faultsIn_ok _ _⟩
  | mul128 => exact ⟨_, exec_mul128_of_busy hbusy, faultsIn_ok _ _⟩
  | mul128x64 => exact ⟨_, exec_mul128x64_of_busy hbusy, faultsIn_ok _ _⟩
  | div128by64 => exact ⟨_, exec_div128by64_of_busy hbusy, checkDivisor_faultsIn (faultsIn_ok _ _) _⟩
  | divpow10 sc =>
    rcases lt_or_ge maxDigits sc with hsc | hsc
    · exact ⟨_, exec_divpow10_of_busy_of_lt hbusy hsc, faultsIn_fault _⟩
    · exact ⟨_, exec_divpow10_of_busy_of_le hbusy hsc, faultsIn_ok _ _⟩
  | fmulW w rm sc =>
    exact ⟨_, exec_fmulW_of_busy hbusy w rm sc,
      checkScale_faultsIn (checkMode_faultsIn (fun _ => narrowWrapping_faultsIn _) rm) sc⟩
  | fmulC w rm sc =>
    exact ⟨_, exec_fmulC_of_busy hbusy w rm sc,
      checkScale_faultsIn (checkMode_faultsIn (fun _ => narrowChecked_faultsIn _) rm) sc⟩
  | fdivW w rm sc =>
    exact ⟨_, exec_fdivW_of_busy hbusy w rm sc,
      checkScale_faultsIn (checkMode_faultsIn (fun _ => checkDivisor_faultsIn (narrowWrapping_faultsIn _) _) rm) sc⟩
  | fdivC w rm sc =>
    exact ⟨_, exec_fdivC_of_busy hbusy w rm sc,
      checkScale_faultsIn (checkMode_faultsIn (fun _ => checkDivisor_faultsIn (narrowChecked_faultsIn _) _) rm) sc⟩
  | rescaleC w rm sc tc =>
    refine ⟨_, exec_rescaleC_of_busy hbusy w rm sc tc, fun f hf => ?_⟩
    have hmem := checkScale_faultsIn
      (checkScale_faultsIn (checkMode_faultsIn (fun _ => narrowChecked_faultsIn _) rm) tc) sc f hf
    rcases List.mem_cons.mp hmem with rfl | hmem
    · exact List.mem_cons_self
    · exact hmem
  | fromdecW w sc =>
    exact ⟨_, exec_fromdecW_of_busy hbusy w sc,
      checkScale_faultsIn (checkDecimal_faultsIn (fun _ => narrowWrapping_faultsIn _) c.opa) sc⟩
  | fromdecC w sc =>
    exact ⟨_, exec_fromdecC_of_busy hbusy w sc,
      checkScale_faultsIn (checkDecimal_faultsIn (fun _ => narrowChecked_faultsIn _) c.opa) sc⟩
  | todec w sc => exact ⟨_, exec_todec_of_busy hbusy w sc, checkScale_faultsIn (faultsIn_ok _ _) sc⟩
  | faddW w sc => exact SimpleOperator.exists_wrapping_response_faultsIn hbusy .add w sc
  | faddC w sc => exact SimpleOperator.exists_checked_response_faultsIn hbusy .add w sc
  | fsubW w sc => exact SimpleOperator.exists_wrapping_response_faultsIn hbusy .sub w sc
  | fsubC w sc => exact SimpleOperator.exists_checked_response_faultsIn hbusy .sub w sc
  | fnegW w sc => exact SimpleOperator.exists_wrapping_response_faultsIn hbusy .neg w sc
  | fnegC w sc => exact SimpleOperator.exists_checked_response_faultsIn hbusy .neg w sc
  | fabsW w sc => exact SimpleOperator.exists_wrapping_response_faultsIn hbusy .abs w sc
  | fabsC w sc => exact SimpleOperator.exists_checked_response_faultsIn hbusy .abs w sc
  | fincW w sc => exact SimpleOperator.exists_wrapping_response_faultsIn hbusy .inc w sc
  | fincC w sc => exact SimpleOperator.exists_checked_response_faultsIn hbusy .inc w sc
  | fdecW w sc => exact SimpleOperator.exists_wrapping_response_faultsIn hbusy .dec w sc
  | fdecC w sc => exact SimpleOperator.exists_checked_response_faultsIn hbusy .dec w sc
  | fcmp w sc => exact ⟨_, exec_fcmp_of_busy hbusy w sc, checkScale_faultsIn (faultsIn_ok _ _) sc⟩
  | fclass w sc => exact ⟨_, exec_fclass_of_busy hbusy w sc, checkScale_faultsIn (faultsIn_ok _ _) sc⟩

theorem completeFixed_of_idle {s : State} (h : s.phase = .idle) (w : Width) (sc : Nat) (narrow : Width → Int → Response)
    (exact : Int → Int → Int) : completeFixed w sc s narrow exact = .refused .noCommandInFlight :=
  completeWith_of_idle h _

/-- A command completes only when it is in flight (R24). -/
theorem exists_busy_of_exec_eq_next {i : Instr} {s t : State} (h : exec i s = .next t) : ∃ c, s.phase = .busy c := by
  cases hphase : s.phase with
  | busy c => exact ⟨c, rfl⟩
  | idle =>
    have hrefused : exec i s = .refused .noCommandInFlight := by
      cases i with
      | faddW w sc | faddC w sc | fsubW w sc | fsubC w sc | fnegW w sc | fnegC w sc | fabsW w sc | fabsC w sc | fincW w sc
      | fincC w sc | fdecW w sc | fdecC w sc =>
        rw [exec]
        exact completeFixed_of_idle hphase w sc _ _
      | _ =>
        rw [exec]
        exact completeWith_of_idle hphase _
    cases hrefused.symm.trans h

/-- Settles O57. -/
theorem commandsReportOnlyTheirFaults : Obligations.CommandsReportOnlyTheirFaults := by
  intro i s t f hexec hfault
  obtain ⟨c, hbusy⟩ := exists_busy_of_exec_eq_next hexec
  obtain ⟨r, hresponse, hfaults⟩ := exists_response_faultsIn_reportable i hbusy
  obtain rfl := Host.Outcome.next.inj (hresponse.symm.trans hexec)
  exact hfaults f (Option.some.inj hfault)

/-- R217: the two rows of R219 that list InvalidOperand. -/
theorem eq_fromdec_of_invalidOperand_mem_reportable {i : Instr} (h : .invalidOperand ∈ reportable i) :
    ∃ (w : Width) (sc : Nat), i = .fromdecW w sc ∨ i = .fromdecC w sc := by
  cases i with
  | fromdecW w sc => exact ⟨w, sc, .inl rfl⟩
  | fromdecC w sc => exact ⟨w, sc, .inr rfl⟩
  | _ => simp [reportable] at h

/-- R213: the three rows of R219 that list DivideByZero. -/
theorem eq_division_of_divideByZero_mem_reportable {i : Instr} (h : .divideByZero ∈ reportable i) :
    i = .div128by64 ∨ ∃ (w : Width) (rm sc : Nat), i = .fdivW w rm sc ∨ i = .fdivC w rm sc := by
  cases i with
  | div128by64 => exact .inl rfl
  | fdivW w rm sc => exact .inr ⟨w, rm, sc, .inl rfl⟩
  | fdivC w rm sc => exact .inr ⟨w, rm, sc, .inr rfl⟩
  | _ => simp [reportable] at h

/-! ### Operand, divisor and scale (R217, R213, R215) -/

/-- Settles O38: a malformed word does not decode; the rest is read off the rows of R219. -/
theorem malformedDecimalIsInvalidOperand : Obligations.MalformedDecimalIsInvalidOperand := by
  refine ⟨fun w sc s c hbusy hsc hmalformed => ?_, fun i s t hexec hfault => ?_⟩
  · have hnone := decodeDec_of_malformed hmalformed
    rw [exec_fromdecW_of_busy hbusy, exec_fromdecC_of_busy hbusy, checkScale_of_le hsc, checkScale_of_le hsc,
      checkDecimal_of_none hnone, checkDecimal_of_none hnone]
    exact ⟨rfl, rfl⟩
  · exact eq_fromdec_of_invalidOperand_mem_reportable (commandsReportOnlyTheirFaults i s t _ hexec hfault)

/-- Settles O46: a divisor whose low bits are zero is the signed or the unsigned zero; the rest is read off the rows of R219. -/
theorem zeroDivisorFaults : Obligations.ZeroDivisorFaults := by
  refine ⟨fun s c hbusy => ⟨fun w rm sc hsc hrm hzero => ?_, fun hzero => ?_⟩, fun i s t hexec hfault => ?_⟩
  · obtain ⟨m, hm⟩ := RoundingMode.exists_ofNumber_of_le hrm
    exact exec_fdiv_of_divisor_zero hbusy hsc hm (Width.sint_eq_zero_of_mod_eq_zero hzero)
  · have hlow : bits c.opb 63 0 = 0 := (bits_low_eq_mod c.opb).trans hzero
    rw [exec_div128by64_of_busy hbusy, decide_eq_true hlow, checkDivisor_true]
  · exact eq_division_of_divideByZero_mem_reportable (commandsReportOnlyTheirFaults i s t _ hexec hfault)

/-- The commands of the formats F and X, at one width, mode number and scale, in the order of their opcodes (R57, R58). -/
def scaleCommands (w : Width) (rm sc : Nat) : List Instr :=
  [.fmulW w rm sc, .fmulC w rm sc, .fdivW w rm sc, .fdivC w rm sc, .fromdecW w sc, .fromdecC w sc, .todec w sc] ++
    SimpleOperator.all.flatMap (fun op => [op.wrapping w sc, op.checked w sc]) ++ [.fcmp w sc, .fclass w sc]

/-- R215: each of them tests its scale before anything else. -/
theorem exec_scaleCommand_of_busy {s : State} {c : Command} (hbusy : s.phase = .busy c) (w : Width) (rm sc : Nat) :
    ∀ i ∈ scaleCommands w rm sc, ∃ k, exec i s = .next (s.completed (checkScale w sc k)) := by
  have hsimple : ∀ i ∈ SimpleOperator.all.flatMap (fun op => [op.wrapping w sc, op.checked w sc]),
      ∃ k, exec i s = .next (s.completed (checkScale w sc k)) := by
    intro i hi
    obtain ⟨op, -, hform⟩ := List.mem_flatMap.mp hi
    rcases List.mem_pair.mp hform with rfl | rfl
    · exact ⟨_, op.exec_wrapping_of_busy hbusy w sc⟩
    · exact ⟨_, op.exec_checked_of_busy hbusy w sc⟩
  simp only [scaleCommands, List.forall_mem_append, List.forall_mem_cons, List.not_mem_nil,
    false_implies, implies_true, and_true]
  exact ⟨⟨⟨⟨_, exec_fmulW_of_busy hbusy w rm sc⟩, ⟨_, exec_fmulC_of_busy hbusy w rm sc⟩,
      ⟨_, exec_fdivW_of_busy hbusy w rm sc⟩, ⟨_, exec_fdivC_of_busy hbusy w rm sc⟩,
      ⟨_, exec_fromdecW_of_busy hbusy w sc⟩, ⟨_, exec_fromdecC_of_busy hbusy w sc⟩, ⟨_, exec_todec_of_busy hbusy w sc⟩⟩,
    hsimple⟩, ⟨_, exec_fcmp_of_busy hbusy w sc⟩, ⟨_, exec_fclass_of_busy hbusy w sc⟩⟩

/-- Settles O55. -/
theorem scaleOutOfRangeFaults : Obligations.ScaleOutOfRangeFaults := by
  refine fun s c hbusy => ⟨fun w rm sc tc => ⟨fun hsc i hi => ?_, exec_rescaleC_of_scale_lt hbusy⟩,
    fun sc => exec_divpow10_of_busy_of_lt hbusy⟩
  obtain ⟨k, hexec⟩ := exec_scaleCommand_of_busy hbusy w rm sc i hi
  rw [hexec, checkScale_of_lt hsc]

/-! ### The two forms of a pair (R220) -/

/-- R220 on the responses of a wrapping and a checked form whose exact result, where there is one, is `V`. -/
def FormsAgree (w : Width) (V : Option Int) (rW rC : Response) : Prop :=
  (∀ f, f ≠ .overflow → (rW = .fault f ↔ rC = .fault f)) ∧
  (∀ res aux, rC = .ok res aux → rW = .ok res aux) ∧
  (rC = .fault .overflow → ∃ v, V = some v ∧ w.fits v = false ∧ rW = .ok (w.wrap v) 0) ∧
  rW ≠ .fault .overflow

section FormsAgree

variable {w : Width} {V : Option Int} {kW kC : Response}

/-- The two ways of narrowing one value differ only where it does not fit. -/
theorem formsAgree_narrow (w : Width) (v : Int) : FormsAgree w (some v) (narrowWrapping w v) (narrowChecked w v) := by
  rw [narrowWrapping_eq]
  rcases narrowChecked_cases w v with ⟨-, hok⟩ | ⟨hfits, hfault⟩
  · rw [hok, narrowWrapping_eq]
    exact ⟨fun _ _ => Iff.rfl, fun _ _ h => h, nofun, nofun⟩
  · rw [hfault]
    refine ⟨fun f hf => ⟨nofun, fun h => ?_⟩, nofun, fun _ => ⟨v, rfl, hfits, rfl⟩, nofun⟩
    exact absurd (Response.fault.inj h).symm hf

theorem formsAgree_fault {f : CommandFault} (hf : f ≠ .overflow) : FormsAgree w V (.fault f) (.fault f) :=
  ⟨fun _ _ => Iff.rfl, fun _ _ h => h, fun h => absurd (Response.fault.inj h) hf, fun h => hf (Response.fault.inj h)⟩

/-- A check that both forms make alike keeps their agreement. -/
theorem formsAgree_checkScale (h : FormsAgree w V kW kC) (sc : Nat) :
    FormsAgree w V (checkScale w sc kW) (checkScale w sc kC) := by
  rcases lt_or_ge w.maxScale sc with hsc | hsc
  · rw [checkScale_of_lt hsc, checkScale_of_lt hsc]
    exact formsAgree_fault (by decide)
  · rwa [checkScale_of_le hsc, checkScale_of_le hsc]

theorem formsAgree_checkDivisor (h : FormsAgree w V kW kC) (isZero : Bool) :
    FormsAgree w V (checkDivisor isZero kW) (checkDivisor isZero kC) := by
  cases isZero with
  | false => exact h
  | true => exact formsAgree_fault (by decide)

theorem formsAgree_checkMode {value : RoundingMode → Int} {kW kC : RoundingMode → Response}
    (h : ∀ m, FormsAgree w (some (value m)) (kW m) (kC m)) (rm : Nat) :
    FormsAgree w ((RoundingMode.ofNumber rm).map value) (checkMode rm kW) (checkMode rm kC) := by
  cases hm : RoundingMode.ofNumber rm with
  | none =>
    rw [checkMode_of_none hm, checkMode_of_none hm]
    exact formsAgree_fault (by decide)
  | some m =>
    rw [checkMode_of_some hm, checkMode_of_some hm]
    exact h m

theorem formsAgree_checkDecimal {value : Decimal → Int} {kW kC : Decimal → Response}
    (h : ∀ x, FormsAgree w (some (value x)) (kW x) (kC x)) (opa : Wide) :
    FormsAgree w ((decodeDec opa).map value) (checkDecimal opa kW) (checkDecimal opa kC) := by
  cases hx : decodeDec opa with
  | none =>
    rw [checkDecimal_of_none hx, checkDecimal_of_none hx]
    exact formsAgree_fault (by decide)
  | some x =>
    rw [checkDecimal_of_some hx, checkDecimal_of_some hx]
    exact h x

end FormsAgree

/-- The rows of R220 for the six operators of 44_fixed_addsub.md: the wrapping form, the checked form, the exact result. -/
def simplePairs (w : Width) (sc : Nat) (a b : Int) : List (Instr × Instr × Option Int) :=
  SimpleOperator.all.map fun op => (op.wrapping w sc, op.checked w sc, some (op.value sc a b))

/-- All nine rows, for a decimal operand `opa` and the raw values `a` and `b`. -/
def formPairs (w : Width) (rm sc : Nat) (opa : Wide) (a b : Int) : List (Instr × Instr × Option Int) :=
  [(.fmulW w rm sc, .fmulC w rm sc, (RoundingMode.ofNumber rm).map (mulExact a b sc)),
    (.fdivW w rm sc, .fdivC w rm sc, (RoundingMode.ofNumber rm).map (divExact a b sc)),
    (.fromdecW w sc, .fromdecC w sc, (decodeDec opa).map fun x => fromDecimalExact x sc)] ++ simplePairs w sc a b

/-- R220: the forms of a pair make the same checks in the same order and narrow the same value. -/
theorem formsAgree_of_mem_formPairs {s : State} {c : Command} (hbusy : s.phase = .busy c) (w : Width) (rm sc : Nat) :
    ∀ row ∈ formPairs w rm sc c.opa (w.sint c.opa) (w.sint c.opb), ∃ rW rC,
      exec row.1 s = .next (s.completed rW) ∧ exec row.2.1 s = .next (s.completed rC) ∧ FormsAgree w row.2.2 rW rC := by
  simp only [formPairs, simplePairs, List.forall_mem_append, List.forall_mem_cons, List.forall_mem_map,
    List.not_mem_nil, false_implies, implies_true, and_true]
  refine ⟨⟨?fmul, ?fdiv, ?fromdec⟩, fun op _ => ?simple⟩
  case fmul =>
    exact ⟨_, _, exec_fmulW_of_busy hbusy w rm sc, exec_fmulC_of_busy hbusy w rm sc,
      formsAgree_checkScale (formsAgree_checkMode (fun m => formsAgree_narrow w _) rm) sc⟩
  case fdiv =>
    exact ⟨_, _, exec_fdivW_of_busy hbusy w rm sc, exec_fdivC_of_busy hbusy w rm sc,
      formsAgree_checkScale (formsAgree_checkMode (fun m => formsAgree_checkDivisor (formsAgree_narrow w _) _) rm) sc⟩
  case fromdec =>
    exact ⟨_, _, exec_fromdecW_of_busy hbusy w sc, exec_fromdecC_of_busy hbusy w sc,
      formsAgree_checkScale (formsAgree_checkDecimal (fun x => formsAgree_narrow w _) c.opa) sc⟩
  case simple =>
    exact ⟨_, _, op.exec_wrapping_of_busy hbusy w sc, op.exec_checked_of_busy hbusy w sc,
      formsAgree_checkScale (formsAgree_narrow w _) sc⟩

/-- Settles O58: the nine rows written out are `formPairs` by evaluation. -/
theorem checkedAndWrappingFormsAgree : Obligations.CheckedAndWrappingFormsAgree := by
  rintro s c w rm sc hbusy _ _ rfl rfl
  exact formsAgree_of_mem_formPairs hbusy w rm sc

/-! ### The order of the faults (R218) -/

/-- A checked result in the spelling of R212. -/
theorem narrowChecked_eq_ite (w : Width) (v : Int) :
    narrowChecked w v = if w.fits v then .ok (w.wrap v) 0 else .fault .overflow := rfl

/-- A number that is a mode passes the mode check (R54). -/
theorem not_four_lt_of_ofNumber_eq_some {rm : Nat} {m : RoundingMode} (h : Sys2Proof.RoundingMode.ofNumber rm = some m) :
    ¬4 < rm := by
  rw [← RoundingMode.ofNumber_eq_none, h]
  exact Option.some_ne_none m

/-- Settles O59: one case for each fault, in the order of the checks. -/
theorem firstFaultInOrderIsReported : Obligations.FirstFaultInOrderIsReported := by
  refine fun s c w rm sc tc hbusy => ⟨?fdiv, ?fromdec, ?rescale⟩
  case fdiv =>
    rw [exec_fdivC_of_busy hbusy]
    rcases lt_or_ge w.maxScale sc with hsc | hsc
    · rw [checkScale_of_lt hsc, if_pos hsc]
    rw [checkScale_of_le hsc, if_neg hsc.not_gt]
    cases hm : RoundingMode.ofNumber rm with
    | none => rw [checkMode_of_none hm, if_pos (RoundingMode.ofNumber_eq_none.mp hm)]
    | some m =>
      rw [checkMode_of_some hm, if_neg (not_four_lt_of_ofNumber_eq_some hm)]
      by_cases hzero : w.sint c.opb = 0
      · rw [decide_eq_true hzero, checkDivisor_true, if_pos hzero]
      · rw [decide_eq_false hzero, checkDivisor_false, if_neg hzero, narrowChecked_eq_ite]
  case fromdec =>
    rw [exec_fromdecC_of_busy hbusy]
    rcases lt_or_ge w.maxScale sc with hsc | hsc
    · rw [checkScale_of_lt hsc, if_pos hsc]
    rw [checkScale_of_le hsc, if_neg hsc.not_gt]
    cases hx : decodeDec c.opa with
    | none => rw [checkDecimal_of_none hx]
    | some x => rw [checkDecimal_of_some hx, narrowChecked_eq_ite]
  case rescale =>
    by_cases hscale : w.maxScale < sc ∨ w.maxScale < tc
    · rw [exec_rescaleC_of_scale_lt hbusy hscale, if_pos hscale]
    obtain ⟨hsc, htc⟩ : sc ≤ w.maxScale ∧ tc ≤ w.maxScale := by simpa using hscale
    rw [exec_rescaleC_of_busy hbusy, checkScale_of_le hsc, checkScale_of_le htc, if_neg hscale]
    cases hm : RoundingMode.ofNumber rm with
    | none => rw [checkMode_of_none hm]
    | some m => rw [checkMode_of_some hm, narrowChecked_eq_ite]

end Sys2Proof.Machine

/-! PROOF. Reset and hazards (70_reset_and_hazards.md), with the illegal words of R216: the moves of a unit that waits (R240),
and the completion of a command after any latency (R243, R244). -/

namespace Sys2Proof.Machine

/-! ### Moves that only pass time -/

theorem step_of_hold {s : State} {rest : List Event} (h : s.schedule = .hold :: rest) :
    step s = .next { s with schedule := rest } :=
  step_of_turn_none (by simp [turn, h])

theorem step_of_idle_of_wait {s : State} {rest : List Event} (hidle : s.phase = .idle) (h : s.schedule = .wait :: rest) :
    step s = .next { s with schedule := rest } :=
  step_of_turn_none (by simp [turn, hidle, h])

theorem step_of_idle_of_nil {s : State} (hidle : s.phase = .idle) (h : s.schedule = []) : step s = .next s :=
  step_of_turn_none (by simp [turn, hidle, h])

/-- Settles O10. -/
theorem idleUnitWaits : Obligations.IdleUnitWaits := by
  refine fun s hidle => ⟨step_of_idle_of_nil hidle, fun rest hnext => ?_⟩
  rcases hnext with hwait | hhold
  · exact step_of_idle_of_wait hidle hwait
  · exact step_of_hold hhold

/-! ### Illegal words (R216) -/

/-- Settles O7. -/
theorem stepAnswersIllegalCommand : Obligations.StepAnswersIllegalCommand :=
  fun _ _ _ hcompleting hdecode =>
    (step_of_completing_of_decode_error hcompleting hdecode).trans (completeIllegal_of_busy hcompleting.1)

/-! ### Latency (R243, R244) -/

/-- Holds that stand first are used up one a step, and nothing else changes. -/
theorem run_add_of_holds {s : State} {n : Nat} {rest : List Event} (h : s.schedule = List.replicate n .hold ++ rest) (k : Nat) :
    Host.Core.run Sys2Proof.core (n + k) s = Host.Core.run Sys2Proof.core k { s with schedule := rest } := by
  induction n generalizing s with
  | zero =>
    obtain rfl : s.schedule = rest := h
    rw [Nat.zero_add]
  | succ n ih =>
    rw [Nat.add_right_comm, run_succ_of_step (step_of_hold h)]
    exact ih rfl

/-- The first `k` of `n` holds lead to the state with `n - k` of them left. -/
theorem run_of_le_holds {s : State} {n k : Nat} {rest : List Event} (h : s.schedule = List.replicate n .hold ++ rest)
    (hk : k ≤ n) :
    Host.Core.run Sys2Proof.core k s = .next { s with schedule := List.replicate (n - k) .hold ++ rest } := by
  have hsplit : s.schedule = List.replicate k .hold ++ (List.replicate (n - k) .hold ++ rest) := by
    rw [h, ← List.append_assoc, List.replicate_append_replicate, Nat.add_sub_cancel' hk]
  exact run_add_of_holds hsplit 0

/-- What stands next and is no hold and no reset lets the command in flight complete. -/
theorem State.completing_of_head?_ne {s : State} {c : Command} (hbusy : s.phase = .busy c)
    (hhold : s.schedule.head? ≠ some .hold) (hreset : s.schedule.head? ≠ some .reset) : s.Completing c := by
  refine ⟨hbusy, ?_⟩
  cases hhead : s.schedule.head? with
  | none => exact .inl (List.head?_eq_none_iff.mp hhead)
  | some e =>
    cases e with
    | issue d => exact .inr (.inr ⟨d, rfl⟩)
    | wait => exact .inr (.inl rfl)
    | hold => exact absurd hhead hhold
    | reset => exact absurd hhead hreset

/-- What a completion leaves of the schedule, by its first event (log 1, log 5). -/
theorem State.scheduleAfter_eq_ite (s : State) :
    s.scheduleAfter = if s.schedule.head? = some .wait then s.schedule.tail else s.schedule := by
  split
  next hwait =>
    obtain ⟨rest, hrest⟩ := List.head?_eq_some_iff.mp hwait
    simp [State.scheduleAfter, hrest]
  next hother => exact State.scheduleAfter_of_head?_ne_wait hother

/-- Settles O17: after the holds the same command is in flight over the same table, so its completion gives the one answer of
`exists_answer_of_completing`. -/
theorem commandCompletesAfterAnyLatency : Obligations.CommandCompletesAfterAnyLatency := by
  intro s c n rest hbusy hschedule hhold hreset
  refine ⟨fun k hk => run_of_le_holds hschedule hk, ?_⟩
  obtain ⟨r, hanswer, hcomplete⟩ := exists_answer_of_completing s.rom c
  refine ⟨r, hanswer, ?_⟩
  rintro left rfl
  have hstep := hcomplete { s with schedule := rest } (State.completing_of_head?_ne hbusy hhold hreset) rfl
  rw [State.scheduleAfter_eq_ite] at hstep
  have hrun := (run_add_of_holds hschedule 1).trans (run_succ_of_step hstep 0)
  exact ⟨hrun, fun hlatency => hlatency ▸ hrun⟩

end Sys2Proof.Machine
